-- ==== Sys2Proof/Word.lean ====
section
/-! DEFINITION. The word types of the machine (00_scope.md R7, R8): every value is unsigned, bit 0 is the least significant bit. -/

namespace Sys2Proof

/-- A byte of memory, a general register, a timer, an 8-bit immediate (R8, R20, R30). -/
abbrev Byte := BitVec 8

/-- A 16-bit value: an instruction word, `pc`, `I`, a call-stack entry (R23, R26, R28, R80). -/
abbrev Word := BitVec 16

/-- The 12-bit address immediate `nnn` (R81). -/
abbrev Addr12 := BitVec 12

/-- A 4-bit field that is used as a number: the sprite height `n` (R81, R83). -/
abbrev Nibble := BitVec 4

/-- The number of a general register, 0 to 15 (R20): "always in-range by construction". -/
abbrev RegIx := Fin 16

/-- `zext_16` of a byte (R9). -/
abbrev zextByte (b : Byte) : Word := b.zeroExtend 16

/-- `zext_16` of a 12-bit address (R9, R83). -/
abbrev zextAddr (a : Addr12) : Word := a.zeroExtend 16

end Sys2Proof
end

