-- ==== Sys2Proof/Config.lean ====
section
/-! DEFINITION. What is fixed for the life of the block (00_scope.md R6) and the free values the host's inputs are drawn from.

The parameters the spec itself chose and not the source (the font bytes, the drawing limits) stand in Machine/Parameters.lean;
the OPEN parameter `STACK_DEPTH` is a field of State, so that a claim over every state holds for every depth. -/

namespace Sys2Proof.Config

/-- `MEM_SIZE` (R6, R50). -/
def memSize : Nat := 4096

/-- `PROG_BASE`: the load address and the reset value of `pc` (R6, R23). -/
def progBase : Nat := 0x200

/-- The longest program image that fits above `PROG_BASE` (R263). -/
def maxImage : Nat := memSize - progBase

/-- `FONT_BASE` (R6, R57). -/
def fontBase : Nat := 0x050

/-- `FONT_LEN`: 16 glyphs of 5 bytes (R6, R58). -/
def fontLen : Nat := 80

/-- `GRID_W` (R6, R33). -/
def gridW : Nat := 64

/-- `GRID_H` (R6, R33). -/
def gridH : Nat := 32

/-- FREE VALUE (R222, U11; log entry 2): whether the `n`th event that the model's event queue does not spell out is a `Tick`
rather than an `Exec`. It has no body: nothing in Lean can say what it is, so no number of ticks between two `Exec` events can be
assumed. -/
opaque freeTick : Nat → Bool

/-- FREE VALUE (R106, R244, U10; log entry 2): the key snapshot of the `n`th event that the model's event queue does not
spell out, where that event is an `Exec`. It has no body: nothing in Lean can say what it is. -/
opaque freeKeys : Nat → BitVec 16

/-- FREE VALUE (R151, R245, U9; log entry 2): the random byte of the `n`th event that the model's event queue does not
spell out, where that event is an `Exec`. It has no body: nothing in Lean can say what it is. -/
opaque freeRnd : Nat → Byte

end Sys2Proof.Config
end

