-- ==== Sys2Proof/Syntax.lean ====
section
/-! DEFINITION. The 34 instructions of the opcode map (30_encoding.md R86), one constructor per row of spec/opcode_table.json.

The operand types carry the ranges of R20 and R83: a register number is below 16, `nn` is a byte, `nnn` has 12 bits, `n` has 4.
So every term of `Instr` is a well-formed instruction. -/

namespace Sys2Proof

inductive Instr where
  /-- `00E0` CLS -/
  | cls
  /-- `00EE` RET -/
  | ret
  /-- `1nnn` JP nnn -/
  | jp (nnn : Addr12)
  /-- `2nnn` CALL nnn -/
  | call (nnn : Addr12)
  /-- `3xnn` SE Vx, nn -/
  | seVxNn (x : RegIx) (nn : Byte)
  /-- `4xnn` SNE Vx, nn -/
  | sneVxNn (x : RegIx) (nn : Byte)
  /-- `5xy0` SE Vx, Vy -/
  | seVxVy (x y : RegIx)
  /-- `6xnn` LD Vx, nn -/
  | ldVxNn (x : RegIx) (nn : Byte)
  /-- `7xnn` ADD Vx, nn -/
  | addVxNn (x : RegIx) (nn : Byte)
  /-- `8xy0` LD Vx, Vy -/
  | ldVxVy (x y : RegIx)
  /-- `8xy1` OR Vx, Vy -/
  | or (x y : RegIx)
  /-- `8xy2` AND Vx, Vy -/
  | and (x y : RegIx)
  /-- `8xy3` XOR Vx, Vy -/
  | xor (x y : RegIx)
  /-- `8xy4` ADD Vx, Vy -/
  | addVxVy (x y : RegIx)
  /-- `8xy5` SUB Vx, Vy -/
  | sub (x y : RegIx)
  /-- `8xy6` SHR Vx; `y` is encoded and ignored (R89, R148) -/
  | shr (x y : RegIx)
  /-- `8xy7` SUBN Vx, Vy -/
  | subn (x y : RegIx)
  /-- `8xyE` SHL Vx; `y` is encoded and ignored (R89, R150) -/
  | shl (x y : RegIx)
  /-- `9xy0` SNE Vx, Vy -/
  | sneVxVy (x y : RegIx)
  /-- `Annn` LD I, nnn -/
  | ldINnn (nnn : Addr12)
  /-- `Bnnn` JP V0, nnn -/
  | jpV0 (nnn : Addr12)
  /-- `Cxnn` RND Vx, nn -/
  | rnd (x : RegIx) (nn : Byte)
  /-- `Dxyn` DRW Vx, Vy, n -/
  | drw (x y : RegIx) (n : Nibble)
  /-- `Ex9E` SKP Vx -/
  | skp (x : RegIx)
  /-- `ExA1` SKNP Vx -/
  | sknp (x : RegIx)
  /-- `Fx07` LD Vx, DT -/
  | ldVxDt (x : RegIx)
  /-- `Fx0A` LD Vx, K -/
  | ldVxK (x : RegIx)
  /-- `Fx15` LD DT, Vx -/
  | ldDtVx (x : RegIx)
  /-- `Fx18` LD ST, Vx -/
  | ldStVx (x : RegIx)
  /-- `Fx1E` ADD I, Vx -/
  | addIVx (x : RegIx)
  /-- `Fx29` LD F, Vx -/
  | ldFVx (x : RegIx)
  /-- `Fx33` LD B, Vx -/
  | ldBVx (x : RegIx)
  /-- `Fx55` LD [I], Vx -/
  | ldMiVx (x : RegIx)
  /-- `Fx65` LD Vx, [I] -/
  | ldVxMi (x : RegIx)
  deriving DecidableEq, Repr

end Sys2Proof
end

