-- ==== Sys2Proof/WellFormed.lean ====
section
/-! DEFINITION. Which words are instructions (30_encoding.md R86, R87), written from the match and mask columns of the opcode map
and independently of the decoder; and the row each constructor of `Instr` stands for.

No check on an `Instr` itself is needed: its operand types carry the ranges of R20 and R83. The check is on a WORD: `wordLegal`
refuses the illegal words of R87 (a smoke test per family stands in Tests/Slice0.lean). -/

namespace Sys2Proof

/-- The six formats of R82. -/
inductive Format where
  | fixed
  | nnn
  | xnn
  | xy
  | xyn
  | x
  deriving DecidableEq, Repr

/-- One row of R86: a word `w` is the instruction of the row if and only if `w & mask == bits`. -/
structure OpcodeRow where
  mnemonic : String
  bits : Word
  mask : Word
  format : Format
  deriving DecidableEq, Repr

/-- Family 0 (R86). -/
def rowsFixed : List OpcodeRow :=
  [ ⟨"CLS", 0x00E0, 0xFFFF, .fixed⟩
  , ⟨"RET", 0x00EE, 0xFFFF, .fixed⟩ ]

/-- Families that hold one instruction each (R84, R86). -/
def rowsOneWordFamilies : List OpcodeRow :=
  [ ⟨"JP", 0x1000, 0xF000, .nnn⟩
  , ⟨"CALL", 0x2000, 0xF000, .nnn⟩
  , ⟨"SE_VX_NN", 0x3000, 0xF000, .xnn⟩
  , ⟨"SNE_VX_NN", 0x4000, 0xF000, .xnn⟩
  , ⟨"LD_VX_NN", 0x6000, 0xF000, .xnn⟩
  , ⟨"ADD_VX_NN", 0x7000, 0xF000, .xnn⟩
  , ⟨"LD_I_NNN", 0xA000, 0xF000, .nnn⟩
  , ⟨"JP_V0", 0xB000, 0xF000, .nnn⟩
  , ⟨"RND", 0xC000, 0xF000, .xnn⟩
  , ⟨"DRW", 0xD000, 0xF000, .xyn⟩ ]

/-- Families 5, 8 and 9, selected by `n` (R85, R86). -/
def rowsRegisterPair : List OpcodeRow :=
  [ ⟨"SE_VX_VY", 0x5000, 0xF00F, .xy⟩
  , ⟨"LD_VX_VY", 0x8000, 0xF00F, .xy⟩
  , ⟨"OR", 0x8001, 0xF00F, .xy⟩
  , ⟨"AND", 0x8002, 0xF00F, .xy⟩
  , ⟨"XOR", 0x8003, 0xF00F, .xy⟩
  , ⟨"ADD_VX_VY", 0x8004, 0xF00F, .xy⟩
  , ⟨"SUB", 0x8005, 0xF00F, .xy⟩
  , ⟨"SHR", 0x8006, 0xF00F, .xy⟩
  , ⟨"SUBN", 0x8007, 0xF00F, .xy⟩
  , ⟨"SHL", 0x800E, 0xF00F, .xy⟩
  , ⟨"SNE_VX_VY", 0x9000, 0xF00F, .xy⟩ ]

/-- Families E and F, selected by `nn` (R85, R86). -/
def rowsKeysTimersMemory : List OpcodeRow :=
  [ ⟨"SKP", 0xE09E, 0xF0FF, .x⟩
  , ⟨"SKNP", 0xE0A1, 0xF0FF, .x⟩
  , ⟨"LD_VX_DT", 0xF007, 0xF0FF, .x⟩
  , ⟨"LD_VX_K", 0xF00A, 0xF0FF, .x⟩
  , ⟨"LD_DT_VX", 0xF015, 0xF0FF, .x⟩
  , ⟨"LD_ST_VX", 0xF018, 0xF0FF, .x⟩
  , ⟨"ADD_I_VX", 0xF01E, 0xF0FF, .x⟩
  , ⟨"LD_F_VX", 0xF029, 0xF0FF, .x⟩
  , ⟨"LD_B_VX", 0xF033, 0xF0FF, .x⟩
  , ⟨"LD_MI_VX", 0xF055, 0xF0FF, .x⟩
  , ⟨"LD_VX_MI", 0xF065, 0xF0FF, .x⟩ ]

/-- The complete opcode map: 34 rows (R86). -/
def opcodeTable : List OpcodeRow :=
  rowsFixed ++ rowsOneWordFamilies ++ rowsRegisterPair ++ rowsKeysTimersMemory

/-- The row matches the word (R86). -/
def OpcodeRow.matchesWord (r : OpcodeRow) (w : Word) : Bool := w &&& r.mask == r.bits

/-- The word is one of the 34 instructions; every other word is illegal (R86, R87). -/
def wordLegal (w : Word) : Bool := opcodeTable.any (·.matchesWord w)

/-- The row of R86 that a constructor of `Instr` stands for. -/
def Instr.row : Instr → OpcodeRow
  | .cls => ⟨"CLS", 0x00E0, 0xFFFF, .fixed⟩
  | .ret => ⟨"RET", 0x00EE, 0xFFFF, .fixed⟩
  | .jp _ => ⟨"JP", 0x1000, 0xF000, .nnn⟩
  | .call _ => ⟨"CALL", 0x2000, 0xF000, .nnn⟩
  | .seVxNn _ _ => ⟨"SE_VX_NN", 0x3000, 0xF000, .xnn⟩
  | .sneVxNn _ _ => ⟨"SNE_VX_NN", 0x4000, 0xF000, .xnn⟩
  | .seVxVy _ _ => ⟨"SE_VX_VY", 0x5000, 0xF00F, .xy⟩
  | .ldVxNn _ _ => ⟨"LD_VX_NN", 0x6000, 0xF000, .xnn⟩
  | .addVxNn _ _ => ⟨"ADD_VX_NN", 0x7000, 0xF000, .xnn⟩
  | .ldVxVy _ _ => ⟨"LD_VX_VY", 0x8000, 0xF00F, .xy⟩
  | .or _ _ => ⟨"OR", 0x8001, 0xF00F, .xy⟩
  | .and _ _ => ⟨"AND", 0x8002, 0xF00F, .xy⟩
  | .xor _ _ => ⟨"XOR", 0x8003, 0xF00F, .xy⟩
  | .addVxVy _ _ => ⟨"ADD_VX_VY", 0x8004, 0xF00F, .xy⟩
  | .sub _ _ => ⟨"SUB", 0x8005, 0xF00F, .xy⟩
  | .shr _ _ => ⟨"SHR", 0x8006, 0xF00F, .xy⟩
  | .subn _ _ => ⟨"SUBN", 0x8007, 0xF00F, .xy⟩
  | .shl _ _ => ⟨"SHL", 0x800E, 0xF00F, .xy⟩
  | .sneVxVy _ _ => ⟨"SNE_VX_VY", 0x9000, 0xF00F, .xy⟩
  | .ldINnn _ => ⟨"LD_I_NNN", 0xA000, 0xF000, .nnn⟩
  | .jpV0 _ => ⟨"JP_V0", 0xB000, 0xF000, .nnn⟩
  | .rnd _ _ => ⟨"RND", 0xC000, 0xF000, .xnn⟩
  | .drw _ _ _ => ⟨"DRW", 0xD000, 0xF000, .xyn⟩
  | .skp _ => ⟨"SKP", 0xE09E, 0xF0FF, .x⟩
  | .sknp _ => ⟨"SKNP", 0xE0A1, 0xF0FF, .x⟩
  | .ldVxDt _ => ⟨"LD_VX_DT", 0xF007, 0xF0FF, .x⟩
  | .ldVxK _ => ⟨"LD_VX_K", 0xF00A, 0xF0FF, .x⟩
  | .ldDtVx _ => ⟨"LD_DT_VX", 0xF015, 0xF0FF, .x⟩
  | .ldStVx _ => ⟨"LD_ST_VX", 0xF018, 0xF0FF, .x⟩
  | .addIVx _ => ⟨"ADD_I_VX", 0xF01E, 0xF0FF, .x⟩
  | .ldFVx _ => ⟨"LD_F_VX", 0xF029, 0xF0FF, .x⟩
  | .ldBVx _ => ⟨"LD_B_VX", 0xF033, 0xF0FF, .x⟩
  | .ldMiVx _ => ⟨"LD_MI_VX", 0xF055, 0xF0FF, .x⟩
  | .ldVxMi _ => ⟨"LD_VX_MI", 0xF065, 0xF0FF, .x⟩

end Sys2Proof
end

