-- ==== Sys2Proof/Decode.lean ====
section
/-! DEFINITION. The decoder (30_encoding.md R81, R84, R85, R93), total on any word and any bytes and rejecting by name, and the
encoder written from the patterns of R86. -/

namespace Sys2Proof

/-- Why bytes are no instruction: `illegalWord` is the `Illegal` verdict of R87 and R93; `truncated` means that fewer bytes than
one instruction word were given (R80). -/
inductive Reject where
  | illegalWord (w : Word)
  | truncated
  deriving DecidableEq, Repr

/-- `w[15:12]` (R81). -/
def opField (w : Word) : Nibble := w.extractLsb' 12 4

/-- `w[11:8]` as a register number (R81). -/
def xField (w : Word) : RegIx := ⟨(w.extractLsb' 8 4).toNat, (w.extractLsb' 8 4).isLt⟩

/-- `w[7:4]` as a register number (R81). -/
def yField (w : Word) : RegIx := ⟨(w.extractLsb' 4 4).toNat, (w.extractLsb' 4 4).isLt⟩

/-- `w[3:0]` (R81). -/
def nField (w : Word) : Nibble := w.extractLsb' 0 4

/-- `w[7:0]` (R81). -/
def nnField (w : Word) : Byte := w.extractLsb' 0 8

/-- `w[11:0]` (R81). -/
def nnnField (w : Word) : Addr12 := w.extractLsb' 0 12

/-- Family 0: "only `nnn = 0x0E0` and `nnn = 0x0EE` are instructions" (R85). -/
def decodeFamily0 (w : Word) : Except Reject Instr :=
  if w = 0x00E0 then .ok .cls
  else if w = 0x00EE then .ok .ret
  else .error (.illegalWord w)

/-- Family 8, selected by `n` (R85, R93). -/
def decodeFamily8 (w : Word) : Except Reject Instr :=
  match nField w with
  | 0x0 => .ok (.ldVxVy (xField w) (yField w))
  | 0x1 => .ok (.or (xField w) (yField w))
  | 0x2 => .ok (.and (xField w) (yField w))
  | 0x3 => .ok (.xor (xField w) (yField w))
  | 0x4 => .ok (.addVxVy (xField w) (yField w))
  | 0x5 => .ok (.sub (xField w) (yField w))
  | 0x6 => .ok (.shr (xField w) (yField w))
  | 0x7 => .ok (.subn (xField w) (yField w))
  | 0xE => .ok (.shl (xField w) (yField w))
  | _ => .error (.illegalWord w)

/-- Family E, selected by `nn` (R85, R93). -/
def decodeFamilyE (w : Word) : Except Reject Instr :=
  match nnField w with
  | 0x9E => .ok (.skp (xField w))
  | 0xA1 => .ok (.sknp (xField w))
  | _ => .error (.illegalWord w)

/-- Family F, selected by `nn` (R85, R93). -/
def decodeFamilyF (w : Word) : Except Reject Instr :=
  match nnField w with
  | 0x07 => .ok (.ldVxDt (xField w))
  | 0x0A => .ok (.ldVxK (xField w))
  | 0x15 => .ok (.ldDtVx (xField w))
  | 0x18 => .ok (.ldStVx (xField w))
  | 0x1E => .ok (.addIVx (xField w))
  | 0x29 => .ok (.ldFVx (xField w))
  | 0x33 => .ok (.ldBVx (xField w))
  | 0x55 => .ok (.ldMiVx (xField w))
  | 0x65 => .ok (.ldVxMi (xField w))
  | _ => .error (.illegalWord w)

/-- The decoder of R93: a function of the word alone (R84). -/
def decode (w : Word) : Except Reject Instr :=
  match opField w with
  | 0x0 => decodeFamily0 w
  | 0x1 => .ok (.jp (nnnField w))
  | 0x2 => .ok (.call (nnnField w))
  | 0x3 => .ok (.seVxNn (xField w) (nnField w))
  | 0x4 => .ok (.sneVxNn (xField w) (nnField w))
  | 0x5 => if nField w = 0 then .ok (.seVxVy (xField w) (yField w)) else .error (.illegalWord w)
  | 0x6 => .ok (.ldVxNn (xField w) (nnField w))
  | 0x7 => .ok (.addVxNn (xField w) (nnField w))
  | 0x8 => decodeFamily8 w
  | 0x9 => if nField w = 0 then .ok (.sneVxVy (xField w) (yField w)) else .error (.illegalWord w)
  | 0xA => .ok (.ldINnn (nnnField w))
  | 0xB => .ok (.jpV0 (nnnField w))
  | 0xC => .ok (.rnd (xField w) (nnField w))
  | 0xD => .ok (.drw (xField w) (yField w) (nField w))
  | 0xE => decodeFamilyE w
  | _ => decodeFamilyF w

/-- The big-endian word of two bytes, the byte at the lower address first (R54). -/
def wordOfBytes (hi lo : Byte) : Word := hi ++ lo

/-- The byte of a word that is stored at the lower address (R54). -/
def highByte (w : Word) : Byte := w.extractLsb' 8 8

/-- The byte of a word that is stored at the higher address (R54). -/
def lowByte (w : Word) : Byte := w.extractLsb' 0 8

/-- Decode the first instruction of a byte sequence and give back the bytes after it: every instruction is two bytes (R80). -/
def decodeBytes : List Byte → Except Reject (Instr × List Byte)
  | hi :: lo :: rest =>
    match decode (wordOfBytes hi lo) with
    | .ok i => .ok (i, rest)
    | .error e => .error e
  | _ => .error .truncated

/-- A register number as the four bits of a field (R81). -/
def regBits (x : RegIx) : Nibble := BitVec.ofNat 4 x.val

/-- Format `NNN` (R82). -/
def packNnn (op : Nibble) (nnn : Addr12) : Word := op ++ nnn

/-- Format `XNN` (R82). -/
def packXnn (op : Nibble) (x : RegIx) (nn : Byte) : Word := op ++ (regBits x ++ nn : BitVec 12)

/-- Formats `XY` and `XYN` (R82). -/
def packXyn (op : Nibble) (x y : RegIx) (n : Nibble) : Word :=
  op ++ (regBits x ++ (regBits y ++ n : BitVec 8) : BitVec 12)

/-- The word of an instruction, from the patterns of R86. The unused `y` of `8xy6` and `8xyE` is kept as written (R89). -/
def encode : Instr → Word
  | .cls => 0x00E0
  | .ret => 0x00EE
  | .jp nnn => packNnn 0x1 nnn
  | .call nnn => packNnn 0x2 nnn
  | .seVxNn x nn => packXnn 0x3 x nn
  | .sneVxNn x nn => packXnn 0x4 x nn
  | .seVxVy x y => packXyn 0x5 x y 0x0
  | .ldVxNn x nn => packXnn 0x6 x nn
  | .addVxNn x nn => packXnn 0x7 x nn
  | .ldVxVy x y => packXyn 0x8 x y 0x0
  | .or x y => packXyn 0x8 x y 0x1
  | .and x y => packXyn 0x8 x y 0x2
  | .xor x y => packXyn 0x8 x y 0x3
  | .addVxVy x y => packXyn 0x8 x y 0x4
  | .sub x y => packXyn 0x8 x y 0x5
  | .shr x y => packXyn 0x8 x y 0x6
  | .subn x y => packXyn 0x8 x y 0x7
  | .shl x y => packXyn 0x8 x y 0xE
  | .sneVxVy x y => packXyn 0x9 x y 0x0
  | .ldINnn nnn => packNnn 0xA nnn
  | .jpV0 nnn => packNnn 0xB nnn
  | .rnd x nn => packXnn 0xC x nn
  | .drw x y n => packXyn 0xD x y n
  | .skp x => packXnn 0xE x 0x9E
  | .sknp x => packXnn 0xE x 0xA1
  | .ldVxDt x => packXnn 0xF x 0x07
  | .ldVxK x => packXnn 0xF x 0x0A
  | .ldDtVx x => packXnn 0xF x 0x15
  | .ldStVx x => packXnn 0xF x 0x18
  | .addIVx x => packXnn 0xF x 0x1E
  | .ldFVx x => packXnn 0xF x 0x29
  | .ldBVx x => packXnn 0xF x 0x33
  | .ldMiVx x => packXnn 0xF x 0x55
  | .ldVxMi x => packXnn 0xF x 0x65

/-- The instruction word of a table row whose `nbits` bits are `w`, bit 0 the least significant bit of the word, with every bit
above `nbits` zero. -/
def tableWord (nbits w : Nat) : Word := BitVec.ofNat 16 (w % 2 ^ nbits)

/-- The instruction the decoder reads from the bytes of a table word, laid out as the hardware stores them (R54). -/
def decodeTableWord (nbits w : Nat) : Option Instr :=
  match decodeBytes [highByte (tableWord nbits w), lowByte (tableWord nbits w)] with
  | .ok (i, _) => some i
  | .error _ => none

end Sys2Proof
end

