-- ==== Sys2Proof/Machine/State.lean ====
section
/-! DEFINITION. The state of the block (10_state.md R37), the model's own fields beside it, the outcomes of a step, and the state
after reset (R38, R260). Plain data throughout. -/

namespace Sys2Proof.Machine

/-- `memory` (R35, R50): the bytes that differ from their reset content, at strictly rising addresses below 4096
(`Memory.wf`, Machine/Ops.lean). An address that is not listed reads as its reset content, `resetByte`. -/
abbrev Memory := List Host.Cell

/-- `grid` (R33): 32 rows of 64 pixels, row 0 the top row, row-major. -/
abbrev Grid := Vector (Vector Bool 64) 32

/-- The five causes of R230. -/
inductive FaultCause where
  /-- code 1 (R231) -/
  | illegalInstruction
  /-- code 2 (R232) -/
  | stackUnderflow
  /-- code 3 (R233) -/
  | memoryOutOfRange
  /-- code 4 (R234) -/
  | stackOverflow
  /-- code 5 (R235) -/
  | keyIndexOutOfRange
  deriving DecidableEq, Repr

/-- The fault record of R237: `(cause, fault_pc, fault_word, fault_addr)`. -/
structure FaultRecord where
  cause : FaultCause
  faultPc : Word
  faultWord : Word
  faultAddr : Word
  deriving DecidableEq, Repr

/-- What the `Exec` event in progress holds: its inputs, sampled once (R106), and the address and the word it fetched, which a
fault record names (R237). The model's own; it is `idle` between events (R36; log entry 3). -/
structure ExecInput where
  keys : BitVec 16
  rnd : Byte
  fetchPc : Word
  fetchWord : Word
  deriving DecidableEq, Repr

/-- No `Exec` event is in progress. -/
def ExecInput.idle : ExecInput := ⟨0, 0, 0, 0⟩

/-- Where the block stands in the lifecycle of R262 and R263 (log entry 7). -/
inductive Phase where
  /-- the reset state, before the first `Load`, `Exec` or `Tick`: the only place a `Load` is allowed -/
  | fresh
  /-- a `Load`, an `Exec` or a `Tick` has been taken since reset -/
  | running
  /-- a `Load` was refused: "the block is not usable until reset" (R263) -/
  | unusable
  deriving DecidableEq, Repr

/-- The events of the block's interface (R262). -/
inductive Event where
  /-- R260 -/
  | reset
  /-- R263 -/
  | load (image : List Byte)
  /-- R100: bit `k` of `keys` is set when logical key `k` is held (R244); `rnd` is the random byte (R245) -/
  | exec (keys : BitVec 16) (rnd : Byte)
  /-- R220 -/
  | tick
  deriving DecidableEq, Repr

/-- The block's interface with its host: the events not yet taken, next first; how many events were drawn from the free values of
Config because none was listed; and the result of the event just taken (the tone bit of a `Tick`, R221, R247; none
after any other event). The model's own (log entries 1, 2, 6). -/
structure Env where
  events : List Event
  draws : Nat
  tone : Option Bool
  deriving DecidableEq, Repr

/-- The state. The first nine fields are the spec's tuple of R37; the last four are the model's own. -/
structure State where
  /-- `memory` (R35) -/
  mem : Memory
  /-- `V[0]` .. `V[15]`; `V[15]` is VF (R20, R22) -/
  v : Vector Byte 16
  /-- the index register `I` (R26) -/
  i : Word
  /-- the program counter (R23); while an instruction body runs it holds `pc_next` (R102) -/
  pc : Word
  /-- the call stack, oldest entry first (R28, R29) -/
  stack : List Word
  /-- `DT` (R30) -/
  dt : Byte
  /-- `ST` (R30) -/
  st : Byte
  /-- the pixel grid (R33) -/
  grid : Grid
  /-- the fault latch (R32) -/
  fault : Option FaultRecord
  /-- the parameter `STACK_DEPTH`; `none` is `unbounded` (R6, R29; log entry 4) -/
  stackDepth : Option Nat
  phase : Phase
  input : ExecInput
  env : Env
  deriving DecidableEq, Repr

/-- Reasons for the outcome `fault`. There are none: every fatal error of the spec (R230) is taken as a NEXT state with the fault
latch set (R236), so no step of this machine ends in the outcome `fault` (log entry 9). Safe: nothing is cut short. -/
inductive Fault where
  deriving DecidableEq, Repr

/-- Reasons for the outcome `refused`. -/
inductive Refusal where
  /-- An arm of `exec` whose instruction has no meaning yet; raised by no arm of this model. Safe. -/
  | notModelled (mnemonic : String)
  /-- Raised by a `Load` event outside the reset state: R263 allows `Load` only there, and U17 says `refuse`. Safe: the model
  stops. -/
  | loadOutsideReset
  /-- Raised by a `Load`, `Exec` or `Tick` event on a block whose load was refused: "the block is not usable until reset" (R263).
  Safe: the model stops. -/
  | blockUnusable
  deriving DecidableEq, Repr

/-- The state after reset (R38, R260): every field of the spec's tuple has the value R38 states; `memory` lists nothing, so every
byte reads as its reset content. The model's own fields: log entries 1 to 7. -/
def State.reset : State where
  mem := []
  v := Vector.replicate 16 0
  i := 0
  pc := BitVec.ofNat 16 Config.progBase
  stack := []
  dt := 0
  st := 0
  grid := Vector.replicate 32 (Vector.replicate 64 false)
  fault := none
  stackDepth := none
  phase := .fresh
  input := .idle
  env := ⟨[], 0, none⟩

end Sys2Proof.Machine
end

