-- ==== Sys2Proof/Machine/Parameters.lean ====
section
/-! DEFINITION. The parameters of 00_scope.md R6 whose values are the spec's own and not the source's. -/

namespace Sys2Proof.Machine

/-- `FONT` (R58): the five bytes of each glyph, digits 0 to F, top row first. PRESUMED: the spec supplies the values from general
knowledge (GK1, D23); log entry 5. -/
def fontGlyphs : List (List Byte) :=
  [ [0xF0, 0x90, 0x90, 0x90, 0xF0]
  , [0x20, 0x60, 0x20, 0x20, 0x70]
  , [0xF0, 0x10, 0xF0, 0x80, 0xF0]
  , [0xF0, 0x10, 0xF0, 0x10, 0xF0]
  , [0x90, 0x90, 0xF0, 0x10, 0x10]
  , [0xF0, 0x80, 0xF0, 0x10, 0xF0]
  , [0xF0, 0x80, 0xF0, 0x90, 0xF0]
  , [0xF0, 0x10, 0x20, 0x40, 0x40] ]
  ++
  [ [0xF0, 0x90, 0xF0, 0x90, 0xF0]
  , [0xF0, 0x90, 0xF0, 0x10, 0xF0]
  , [0xF0, 0x90, 0xF0, 0x90, 0x90]
  , [0xE0, 0x90, 0xE0, 0x90, 0xE0]
  , [0xF0, 0x80, 0x80, 0x80, 0xF0]
  , [0xE0, 0x90, 0x90, 0x90, 0xE0]
  , [0xF0, 0x80, 0xF0, 0x80, 0xF0]
  , [0xF0, 0x80, 0xF0, 0x80, 0x80] ]

/-- The 80 bytes of the font table in address order (R58). -/
def font : List Byte := fontGlyphs.flatten

/-- The reset content of a memory byte, which is what an unlisted address reads as (R38, R57): the font table at 0x050..0x09F and
0x00 elsewhere. -/
def resetByte (a : Nat) : Byte :=
  if Config.fontBase ≤ a ∧ a < Config.fontBase + Config.fontLen then font.getD (a - Config.fontBase) 0 else 0

/-- `DRAW_X_LIMIT`: the first column a sprite does not draw (R6, R195; the spec's decision D8; log entry 10). -/
def drawXLimit : Nat := 64

/-- `DRAW_Y_LIMIT`: the first row a sprite does not draw (R6, R195; the spec's decision D8; log entry 10). -/
def drawYLimit : Nat := 32

end Sys2Proof.Machine
end

