-- ==== Sys2Proof/Machine/Ops.lean ====
section
/-! DEFINITION. The named operations over memory, registers, the call stack and `pc`, and the entry into a fault. -/

namespace Sys2Proof.Machine

/-! ### Memory (20_memory.md R50 to R65) -/

/-- The canonical form: addresses strictly rising and below 4096, and no entry equal to what its address reads as unlisted. -/
def Memory.wf : Memory → Bool
  | [] => true
  | (a, b) :: rest =>
    decide (a < Config.memSize) && b != resetByte a && rest.all (fun c => decide (a < c.1)) && Memory.wf rest

/-- `memory[a]`. -/
def Memory.byteAt : Memory → Nat → Byte
  | [], a => resetByte a
  | (c, b) :: rest, a => if c = a then b else Memory.byteAt rest a

/-- `memory[a] <- b`, kept in canonical form: storing the reset content removes the entry. -/
def Memory.setByte : Memory → Nat → Byte → Memory
  | [], a, b => if b = resetByte a then [] else [(a, b)]
  | (c, d) :: rest, a, b =>
    if a < c then
      if b = resetByte a then (c, d) :: rest else (a, b) :: (c, d) :: rest
    else if a = c then
      if b = resetByte a then rest else (a, b) :: rest
    else (c, d) :: Memory.setByte rest a b

/-- The only address check (R60): the lowest byte address at or above 4096 among the `n` addresses from `base` on, if there is
one. The sum is exact (R10); for a nonempty access that runs off the end it is `max(base, 4096)`. -/
def firstOutOfRange (base n : Nat) : Option Nat :=
  if n = 0 ∨ base + n ≤ Config.memSize then none else some (max base Config.memSize)

/-- The `n` bytes from `base` on, without a check. -/
def Memory.bytesFrom (m : Memory) (base n : Nat) : List Byte := (List.range n).map (fun k => m.byteAt (base + k))

/-- Store bytes at rising addresses from `base` on, without a check. -/
def Memory.setBytes : Memory → Nat → List Byte → Memory
  | m, _, [] => m
  | m, base, b :: bs => Memory.setBytes (m.setByte base b) (base + 1) bs

/-- `MemRead` (R52) for `n` bytes: all of them, or the address that `MemoryOutOfRange` reports. A read changes no state. -/
def Memory.readBytes (m : Memory) (base n : Nat) : Except Nat (List Byte) :=
  match firstOutOfRange base n with
  | some a => .error a
  | none => .ok (m.bytesFrom base n)

/-- `MemWrite` (R53) of a sequence of bytes at rising addresses: every address is checked before the first byte is stored (R60,
R241). -/
def Memory.writeBytes (m : Memory) (base : Nat) (bs : List Byte) : Except Nat Memory :=
  match firstOutOfRange base bs.length with
  | some a => .error a
  | none => .ok (m.setBytes base bs)

/-! ### General registers (10_state.md R20) -/

/-- The number of VF, `V[0xF]` (R22). -/
def vf : RegIx := 15

namespace State

/-- `V[x]`. -/
def reg (s : State) (x : RegIx) : Byte := s.v[x.val]

/-- `V[x] <- b`. No register is hardwired (R20). -/
def setReg (s : State) (x : RegIx) (b : Byte) : State := { s with v := s.v.set x.val b }

/-- `V[0]` .. `V[x]`, in order. -/
def regsUpTo (s : State) (x : RegIx) : List Byte := s.v.toList.take (x.val + 1)

end State

/-- `V[k] <- b` for successive registers from number `k` on, ascending (R176). -/
def loadRegsFrom (v : Vector Byte 16) : Nat → List Byte → Vector Byte 16
  | _, [] => v
  | k, b :: bs => loadRegsFrom (v.setIfInBounds k b) (k + 1) bs

namespace State

/-- `V[0]` .. take the given bytes (R176). -/
def setRegs (s : State) (bs : List Byte) : State := { s with v := loadRegsFrom s.v 0 bs }

/-! ### `I`, `pc`, the timers -/

/-- `I <- a` (R26). -/
def setI (s : State) (a : Word) : State := { s with i := a }

/-- `pc <- target`: no masking, no alignment check, no range check (R23, R129). -/
def setPc (s : State) (a : Word) : State := { s with pc := a }

/-- A skip that is taken if `c` holds: `pc <- pc_next + 2` (R128); `s.pc` is `pc_next`. -/
def skipIf (s : State) (c : Bool) : State := if c then s.setPc (s.pc + 2) else s

/-- `DT <- b` (R30). -/
def setDt (s : State) (b : Byte) : State := { s with dt := b }

/-- `ST <- b` (R30). -/
def setSt (s : State) (b : Byte) : State := { s with st := b }

/-- The memory after stores. -/
def setMem (s : State) (m : Memory) : State := { s with mem := m }

/-- The grid after drawing or clearing. -/
def setGrid (s : State) (g : Grid) : State := { s with grid := g }

/-! ### The call stack (10_state.md R28, R29) -/

/-- The stack holds `STACK_DEPTH` entries; never so with `unbounded` (R29). A stack above the depth counts as full: no run gets
there. -/
def stackFull (s : State) : Bool :=
  match s.stackDepth with
  | none => false
  | some d => decide (d ≤ s.stack.length)

/-- `push(a)`: the newest entry stands last (R28, R29). -/
def push (s : State) (a : Word) : State := { s with stack := s.stack ++ [a] }

/-- The most recently pushed entry, if there is one (R28). -/
def top? (s : State) : Option Word := s.stack.getLast?

/-- The stack without its most recent entry (R28). -/
def dropTop (s : State) : State := { s with stack := s.stack.dropLast }

/-! ### Fault entry (60_exceptions.md R236, R237) -/

/-- `raise <cause>(info)` (R236): `pc` is again the address the instruction was fetched from, and the latch records `(cause,
fault_pc, fault_word, fault_addr)` (R237). The latch is the only register saved into; no mode changes and control goes nowhere.
Every meaning tests its fault before its first write (R241), so that with `pc` put back the whole event has no effect. There is no
return from a fault: only the reset event clears the latch (R239; `resetEvent` of Machine/Events.lean). -/
def raise (s : State) (cause : FaultCause) (info : Nat) : State :=
  { s with
    pc := s.input.fetchPc
    fault := some ⟨cause, s.input.fetchPc, s.input.fetchWord, BitVec.ofNat 16 info⟩ }

/-- A read of `n` bytes at `base` followed by what is done with them, or `MemoryOutOfRange` (R52, R233). -/
def withBytes (s : State) (base n : Nat) (k : List Byte → State) : State :=
  match s.mem.readBytes base n with
  | .error a => s.raise .memoryOutOfRange a
  | .ok bs => k bs

/-- A store of bytes at rising addresses from `base` on, or `MemoryOutOfRange` with nothing stored (R53, R233, R241). -/
def storeBytes (s : State) (base : Nat) (bs : List Byte) : State :=
  match s.mem.writeBytes base bs with
  | .error a => s.raise .memoryOutOfRange a
  | .ok m => s.setMem m

end State

/-- The code of a cause (R230). No instruction can read it. -/
def FaultCause.code : FaultCause → Nat
  | .illegalInstruction => 1
  | .stackUnderflow => 2
  | .memoryOutOfRange => 3
  | .stackOverflow => 4
  | .keyIndexOutOfRange => 5

end Sys2Proof.Machine
end

