-- ==== Sys2Proof/Machine/Flags.lean ====
section
/-! DEFINITION. The flag register VF and every flag computation (10_state.md R22, 42_alu.md R146 to R150). -/

namespace Sys2Proof.Machine

/-- "A flag write stores the byte 0x00 or 0x01" (R22). -/
def flagByte (f : Bool) : Byte := if f then 1 else 0

/-- `V[0xF] <- 1 if f else 0` (R22). -/
def State.setFlag (s : State) (f : Bool) : State := s.setReg vf (flagByte f)

/-- Carry out of the 8-bit addition: the exact sum is above 255 (R146). -/
def carryFlag (a b : Byte) : Bool := decide (a.toNat + b.toNat > 255)

/-- No borrow: `a >= b`, equality included (R147, R149). -/
def noBorrowFlag (a b : Byte) : Bool := decide (a.toNat ≥ b.toNat)

/-- The bit shifted out to the right: bit 0 (R148). -/
def shrFlag (a : Byte) : Bool := a.getLsbD 0

/-- The bit shifted out to the left: bit 7 (R150). -/
def shlFlag (a : Byte) : Bool := a.getLsbD 7

end Sys2Proof.Machine
end

