-- ==== Sys2Proof/Machine/Operands.lean ====
section
/-! DEFINITION. The operand forms (30_encoding.md R83, 43_index_memory.md R171) and the values computed from operands without a
flag (42_alu.md R152). -/

namespace Sys2Proof.Machine

namespace State

/-- The one data addressing mode (R171): base `I` plus an offset, an exact sum of natural numbers (R10). -/
def ea (s : State) (offset : Nat) : Nat := s.i.toNat + offset

/-- `keys[k]` of the event in progress (R106, R244). -/
def keyDown (s : State) (k : Nat) : Bool := s.input.keys.getLsbD k

/-- The lowest-numbered pressed key, if any key is pressed (R212). -/
def lowestKey? (s : State) : Option Nat := (List.range 16).find? (s.keyDown ·)

/-- `cx0 = V[x] mod 64` (R192). -/
def startColumn (s : State) (x : RegIx) : Nat := (s.reg x).toNat % Config.gridW

/-- `cy0 = V[y] mod 32` (R192). -/
def startRow (s : State) (y : RegIx) : Nat := (s.reg y).toNat % Config.gridH

end State

/-- The address of the glyph of the digit in the low nibble of `b` (R173; 90_conflicts.md C1). -/
def glyphAddr (b : Byte) : Word := BitVec.ofNat 16 (Config.fontBase + 5 * (b.toNat % 16))

/-- The three decimal digits, hundreds first, each a whole byte (R174). -/
def bcdDigits (b : Byte) : List Byte :=
  [BitVec.ofNat 8 (b.toNat / 100), BitVec.ofNat 8 (b.toNat / 10 % 10), BitVec.ofNat 8 (b.toNat % 10)]

end Sys2Proof.Machine
end

