-- ==== Sys2Proof/Machine/Alu.lean ====
section
/-! DEFINITION. Register load, arithmetic, logic, shift and random (42_alu.md R140 to R154). Statements run in the order the rule
writes them, each reading the registers as the one before left them (R11): this decides what happens when VF is an operand
(R154). -/

namespace Sys2Proof.Machine

/-- `6xnn` LD Vx, nn (R140). -/
def execLdVxNn (x : RegIx) (nn : Byte) (s : State) : Host.Outcome State Fault Refusal := .next (s.setReg x nn)

/-- `7xnn` ADD Vx, nn (R141): no flag. -/
def execAddVxNn (x : RegIx) (nn : Byte) (s : State) : Host.Outcome State Fault Refusal :=
  .next (s.setReg x (s.reg x + nn))

/-- `8xy0` LD Vx, Vy (R142). -/
def execLdVxVy (x y : RegIx) (s : State) : Host.Outcome State Fault Refusal := .next (s.setReg x (s.reg y))

/-- `8xy1` OR Vx, Vy (R143): VF is left alone. -/
def execOr (x y : RegIx) (s : State) : Host.Outcome State Fault Refusal := .next (s.setReg x (s.reg x ||| s.reg y))

/-- `8xy2` AND Vx, Vy (R144): VF is left alone. -/
def execAnd (x y : RegIx) (s : State) : Host.Outcome State Fault Refusal := .next (s.setReg x (s.reg x &&& s.reg y))

/-- `8xy3` XOR Vx, Vy (R145): VF is left alone. -/
def execXor (x y : RegIx) (s : State) : Host.Outcome State Fault Refusal := .next (s.setReg x (s.reg x ^^^ s.reg y))

/-- `8xy4` ADD Vx, Vy (R146): the sum is written first, the carry second. -/
def execAddVxVy (x y : RegIx) (s : State) : Host.Outcome State Fault Refusal :=
  .next ((s.setReg x (s.reg x + s.reg y)).setFlag (carryFlag (s.reg x) (s.reg y)))

/-- The second statement of `8xy5` (R147): it reads the registers as the flag write left them. -/
def subtractInto (x y : RegIx) (s : State) : State := s.setReg x (s.reg x - s.reg y)

/-- The second statement of `8xy7` (R149): it reads the registers as the flag write left them. -/
def subtractReverse (x y : RegIx) (s : State) : State := s.setReg x (s.reg y - s.reg x)

/-- `8xy5` SUB Vx, Vy (R147): the flag is written first, the difference second. -/
def execSub (x y : RegIx) (s : State) : Host.Outcome State Fault Refusal :=
  .next (subtractInto x y (s.setFlag (noBorrowFlag (s.reg x) (s.reg y))))

/-- The second statement of `8xy6` (R148): a logical shift of `V[x]` as the flag write left it. -/
def shiftRight (x : RegIx) (s : State) : State := s.setReg x (s.reg x >>> 1)

/-- The second statement of `8xyE` (R150): the high bit is discarded. -/
def shiftLeft (x : RegIx) (s : State) : State := s.setReg x (s.reg x <<< 1)

/-- `8xy6` SHR Vx (R148): `y` is ignored; the flag is written first, the shift second. -/
def execShr (x _y : RegIx) (s : State) : Host.Outcome State Fault Refusal :=
  .next (shiftRight x (s.setFlag (shrFlag (s.reg x))))

/-- `8xy7` SUBN Vx, Vy (R149): the flag is written first, the difference second. -/
def execSubn (x y : RegIx) (s : State) : Host.Outcome State Fault Refusal :=
  .next (subtractReverse x y (s.setFlag (noBorrowFlag (s.reg y) (s.reg x))))

/-- `8xyE` SHL Vx (R150): `y` is ignored; the flag is written first, the shift second. -/
def execShl (x _y : RegIx) (s : State) : Host.Outcome State Fault Refusal :=
  .next (shiftLeft x (s.setFlag (shlFlag (s.reg x))))

/-- `Cxnn` RND Vx, nn (R151): `rnd` is the random byte of the event in progress (R245). -/
def execRnd (x : RegIx) (nn : Byte) (s : State) : Host.Outcome State Fault Refusal :=
  .next (s.setReg x (s.input.rnd &&& nn))

end Sys2Proof.Machine
end

