-- ==== Sys2Proof/Machine/Display.lean ====
section
/-! DEFINITION. The pixel grid (10_state.md R33, R34) and the display instructions (44_display.md R190 to R199). -/

namespace Sys2Proof.Machine

/-- `get(r, c)` (R34). -/
def Grid.get (g : Grid) (r c : Nat) : Bool := if h : r < 32 ∧ c < 64 then g[r][c] else false

/-- `set(r, c, b)` (R34). -/
def Grid.set (g : Grid) (r c : Nat) (b : Bool) : Grid :=
  if h : r < 32 ∧ c < 64 then Vector.set g r (Vector.set g[r] c b) else g

/-- `clear()` (R34): 0 in all 2048 pixels. -/
def Grid.clear : Grid := Vector.replicate 32 (Vector.replicate 64 false)

/-- What a draw works on: the grid, and whether a collision has been recorded in this draw (R196). -/
structure Canvas where
  grid : Grid
  hit : Bool
  deriving DecidableEq, Repr

/-- A set sprite bit at `(r, c)`: "if the target pixel is already set, clear it and record a collision ...; if not set, set it"
(R194). -/
def plotPixel (cv : Canvas) (r c : Nat) : Canvas :=
  if Grid.get cv.grid r c then ⟨Grid.set cv.grid r c false, true⟩ else ⟨Grid.set cv.grid r c true, cv.hit⟩

/-- The pixels `ks` of the sprite row `b`, pixel `k` being bit `7 - k` at column `cx0 + k` (R193); the first column at or beyond
the limit ends the row (R195). -/
def drawPixels (xLimit : Nat) (b : Byte) (r cx0 : Nat) : List Nat → Canvas → Canvas
  | [], cv => cv
  | k :: ks, cv =>
    if xLimit ≤ cx0 + k then cv
    else drawPixels xLimit b r cx0 ks (if b.getLsbD (7 - k) then plotPixel cv r (cx0 + k) else cv)

/-- The rows of a sprite from grid row `r` on, each eight pixels wide (R193). -/
def drawRows (xLimit cx0 : Nat) : Nat → List Byte → Canvas → Canvas
  | _, [], cv => cv
  | r, b :: bs, cv => drawRows xLimit cx0 (r + 1) bs (drawPixels xLimit b r cx0 (List.range 8) cv)

/-- The number of rows that are drawn, and so read: `min(n, DRAW_Y_LIMIT - cy0)` (R191, R195). -/
def drawnRows (yLimit cy0 : Nat) (n : Nibble) : Nat := min n.toNat (yLimit - cy0)

/-- `Dxyn` at given clipping limits (R191, R195). The coordinates are read before VF is written (R192); the rows that are drawn
are checked before anything changes (R197); VF is 0 before the loop and is raised by a collision (R196). -/
def drawSprite (xLimit yLimit : Nat) (x y : RegIx) (n : Nibble) (s : State) : State :=
  s.withBytes (s.ea 0) (drawnRows yLimit (s.startRow y) n) fun bs =>
    let cv := drawRows xLimit (s.startColumn x) (s.startRow y) bs ⟨s.grid, false⟩
    (s.setGrid cv.grid).setFlag cv.hit

/-- `00E0` CLS (R190). -/
def execCls (s : State) : Host.Outcome State Fault Refusal := .next (s.setGrid Grid.clear)

/-- `Dxyn` DRW Vx, Vy, n (R191). -/
def execDrw (x y : RegIx) (n : Nibble) (s : State) : Host.Outcome State Fault Refusal :=
  .next (drawSprite drawXLimit drawYLimit x y n s)

end Sys2Proof.Machine
end

