-- ==== Sys2Proof/Machine/IndexMemory.lean ====
section
/-! DEFINITION. Index register and memory transfer (43_index_memory.md R170 to R176). `I` is left unchanged by the three memory
instructions. -/

namespace Sys2Proof.Machine

/-- `Annn` LD I, nnn (R170). -/
def execLdINnn (nnn : Addr12) (s : State) : Host.Outcome State Fault Refusal := .next (s.setI (zextAddr nnn))

/-- `Fx1E` ADD I, Vx (R172): modulo 2^16, no flag. -/
def execAddIVx (x : RegIx) (s : State) : Host.Outcome State Fault Refusal :=
  .next (s.setI (s.i + zextByte (s.reg x)))

/-- `Fx29` LD F, Vx (R173). -/
def execLdFVx (x : RegIx) (s : State) : Host.Outcome State Fault Refusal := .next (s.setI (glyphAddr (s.reg x)))

/-- `Fx33` LD B, Vx (R174). -/
def execLdBVx (x : RegIx) (s : State) : Host.Outcome State Fault Refusal :=
  .next (s.storeBytes (s.ea 0) (bcdDigits (s.reg x)))

/-- `Fx55` LD [I], Vx (R175). -/
def execLdMiVx (x : RegIx) (s : State) : Host.Outcome State Fault Refusal :=
  .next (s.storeBytes (s.ea 0) (s.regsUpTo x))

/-- `Fx65` LD Vx, [I] (R176). -/
def execLdVxMi (x : RegIx) (s : State) : Host.Outcome State Fault Refusal :=
  .next (s.withBytes (s.ea 0) (x.val + 1) s.setRegs)

end Sys2Proof.Machine
end

