-- ==== Sys2Proof/Machine/KeysTimers.lean ====
section
/-! DEFINITION. Key and timer instructions (45_keys_timers.md R210 to R215). The `Tick` event stands in Machine/Events.lean. -/

namespace Sys2Proof.Machine

/-- What `Ex9E` and `ExA1` share: a key number above 15 raises `KeyIndexOutOfRange` (R210, R211, R235); otherwise skip if the
level of the key is `wanted`. -/
def skipOnKey (wanted : Bool) (x : RegIx) (s : State) : State :=
  if (s.reg x).toNat > 15 then s.raise .keyIndexOutOfRange (s.reg x).toNat
  else s.skipIf (s.keyDown (s.reg x).toNat == wanted)

/-- `Ex9E` SKP Vx (R210). -/
def execSkp (x : RegIx) (s : State) : Host.Outcome State Fault Refusal := .next (skipOnKey true x s)

/-- `ExA1` SKNP Vx (R211). -/
def execSknp (x : RegIx) (s : State) : Host.Outcome State Fault Refusal := .next (skipOnKey false x s)

/-- `Fx0A` LD Vx, K (R212): with no key pressed `pc <- pc_next - 2`, and nothing else changes. -/
def execLdVxK (x : RegIx) (s : State) : Host.Outcome State Fault Refusal :=
  .next (match s.lowestKey? with
    | none => s.setPc (s.pc - 2)
    | some k => s.setReg x (BitVec.ofNat 8 k))

/-- `Fx07` LD Vx, DT (R213). -/
def execLdVxDt (x : RegIx) (s : State) : Host.Outcome State Fault Refusal := .next (s.setReg x s.dt)

/-- `Fx15` LD DT, Vx (R214). -/
def execLdDtVx (x : RegIx) (s : State) : Host.Outcome State Fault Refusal := .next (s.setDt (s.reg x))

/-- `Fx18` LD ST, Vx (R215). -/
def execLdStVx (x : RegIx) (s : State) : Host.Outcome State Fault Refusal := .next (s.setSt (s.reg x))

end Sys2Proof.Machine
end

