-- ==== Sys2Proof/Machine/Events.lean ====
section
/-! DEFINITION. The events of the block's interface other than the body of an instruction: which event is next, `Reset`, `Load`,
`Tick`, and the two ends of an `Exec` event (40_fetch_decode_cycle.md R100 to R102, 45_keys_timers.md R220, 70_reset_and_hazards.md
R260 to R263). -/

namespace Sys2Proof.Machine

/-! ### The event queue (log entries 1 and 2) -/

/-- The queue once its next event is taken; the output of the event before is gone. -/
def Env.afterTaking (e : Env) : Env :=
  match e.events with
  | [] => ⟨[], e.draws + 1, none⟩
  | _ :: es => ⟨es, e.draws, none⟩

/-- The `Exec` event with the next free inputs (R106, R245). -/
def Env.freeExec (e : Env) : Event := .exec (Config.freeKeys e.draws) (Config.freeRnd e.draws)

namespace State

/-- The next event: the first one listed, or, when none is listed, an `Exec` or a `Tick`, which of the two being a free value
(R222: "a model must not assume any number"). -/
def nextEvent (s : State) : Event :=
  match s.env.events with
  | [] => if Config.freeTick s.env.draws then .tick else Env.freeExec s.env
  | e :: _ => e

/-- The state with its next event taken off the queue. -/
def takeEvent (s : State) : State := { s with env := Env.afterTaking s.env }

/-! ### Reset and load -/

/-- `Reset` (R260): every piece of state at the value of R38, the latch cleared; "nothing survives a reset". The parameter
`STACK_DEPTH` is fixed for the life of the block (R36), and the events still to come are the host's. -/
def resetEvent (s : State) : State := { State.reset with stackDepth := s.stackDepth, env := s.env }

/-- `Load(image)` (R263): in the reset state only. An image of at most 3584 bytes is copied to 0x200 upward and nothing else
changes; a longer one is not loaded and leaves the block unusable until reset. -/
def loadEvent (image : List Byte) (s : State) : Host.Outcome State Fault Refusal :=
  match s.phase with
  | .fresh =>
    .next (if image.length ≤ Config.maxImage
      then { s with mem := s.mem.setBytes Config.progBase image, phase := .running }
      else { s with phase := .unusable })
  | .running => .refused .loadOutsideReset
  | .unusable => .refused .blockUnusable

/-! ### Tick -/

/-- "decrements ... if nonzero": a timer at 0 stays at 0 (R220). -/
def countDown (t : Byte) : Byte := if t = 0 then 0 else t - 1

/-- `Tick()` on the state: the next state and the tone bit, which says whether `ST` was nonzero before the decrement (R220,
R221). A halted block keeps its timers and gives no tone (R223). -/
def tick (s : State) : State × Bool :=
  if s.fault.isSome then (s, false)
  else ({ s with dt := countDown s.dt, st := countDown s.st }, s.st != 0)

/-- The tone bit handed to the host (R247). -/
def emitTone (s : State) (b : Bool) : State := { s with env := { s.env with tone := some b } }

/-- The block has left the reset state (R263). -/
def leaveReset (s : State) : State := { s with phase := .running }

/-- The `Tick` event (R220, R223). -/
def tickEvent (s : State) : Host.Outcome State Fault Refusal :=
  match s.phase with
  | .unusable => .refused .blockUnusable
  | _ => .next (s.leaveReset.tick.1.emitTone s.tick.2)

/-! ### The two ends of an `Exec` event -/

/-- The inputs are sampled once (R106) and the address of the instruction is kept for a fault record (R237); `fault_word` is 0
until the fetch succeeds. -/
def beginExec (s : State) (keys : BitVec 16) (rnd : Byte) : State :=
  { s with input := ⟨keys, rnd, s.pc, 0⟩ }

/-- Fetch (R101, R54): the two bytes at `pc`, the lower address in the high half, or the out-of-range address. -/
def fetch (s : State) : Except Nat Word :=
  match s.mem.readBytes s.pc.toNat 2 with
  | .error a => .error a
  | .ok bs => .ok ((bs.getD 0 0) ++ (bs.getD 1 0))

/-- After the fetch and before dispatch `pc` is advanced by 2 (R102) and the word is known (R237). -/
def afterFetch (s : State) (w : Word) : State :=
  { s with pc := s.pc + 2, input := { s.input with fetchWord := w } }

/-- The block keeps no input from one event to the next (R36, R106). -/
def endExec (s : State) : State := { s with input := .idle }

/-- The end of the `Exec` event on an outcome of the body. -/
def endExecOutcome : Host.Outcome State Fault Refusal → Host.Outcome State Fault Refusal
  | .next t => .next t.endExec
  | .fault r => .fault r
  | .refused r => .refused r

end State

end Sys2Proof.Machine
end

