-- ==== Sys2Proof/Machine/Cycle.lean ====
section
/-! DEFINITION. The fetch, decode, execute cycle: the `Exec` event as one transition (40_fetch_decode_cycle.md R107), and the
transition of each event. -/

namespace Sys2Proof.Machine

/-- Decode and dispatch (R103): the body of the instruction, or `IllegalInstruction` (R231). -/
def dispatchWord (w : Word) (s : State) : Host.Outcome State Fault Refusal :=
  match decode w with
  | .error _ => .next (s.raise .illegalInstruction 0)
  | .ok i => exec i s

/-- Fetch, advance, decode and body (R107); a fetch out of range raises `MemoryOutOfRange` before anything else (R101, R238). -/
def cycle (s : State) : Host.Outcome State Fault Refusal :=
  match s.fetch with
  | .error a => .next (s.raise .memoryOutOfRange a)
  | .ok w => dispatchWord w (s.afterFetch w)

/-- `Exec(keys, rnd)` (R107): a halted block does not step (R105); otherwise one whole cycle. -/
def execEvent (keys : BitVec 16) (rnd : Byte) (s : State) : Host.Outcome State Fault Refusal :=
  match s.phase with
  | .unusable => .refused .blockUnusable
  | _ =>
    if s.fault.isSome then .next s
    else State.endExecOutcome (cycle (s.leaveReset.beginExec keys rnd))

/-- The transition of an event (R262). -/
def runEvent (e : Event) (s : State) : Host.Outcome State Fault Refusal :=
  match e with
  | .reset => .next s.resetEvent
  | .load image => s.loadEvent image
  | .exec keys rnd => execEvent keys rnd s
  | .tick => s.tickEvent

/-! ### Placing one instruction word for the next step -/

/-- The address the next fetch reads: `pc`, or `PROG_BASE` where no fetch from `pc` can succeed (R101). -/
def placeAddr (s : State) : Word := if s.pc.toNat + 2 ≤ Config.memSize then s.pc else BitVec.ofNat 16 Config.progBase

/-- The event queue with an `Exec` event next: unchanged where one is listed next, otherwise with one of free inputs listed. -/
def Env.withExecNext (e : Env) : Env :=
  match e.events with
  | .exec _ _ :: _ => e
  | es => ⟨e.freeExec :: es, e.draws + 1, e.tone⟩

/-- The state with a word stored at the next fetch address (R54), a block that can step (no fault latched, usable), and an `Exec`
event next. -/
def placeWord (s : State) (w : Word) : State :=
  { s with
    mem := s.mem.setBytes (placeAddr s).toNat [highByte w, lowByte w]
    pc := placeAddr s
    fault := none
    phase := if s.phase = .unusable then .running else s.phase
    env := Env.withExecNext s.env }

end Sys2Proof.Machine
end

