-- ==== Sys2Proof/Machine/Step.lean ====
section
/-! DEFINITION. One step of the machine: one event of the block's interface (00_scope.md R2, 70_reset_and_hazards.md R262). -/

namespace Sys2Proof.Machine

/-- One step takes the next event off the queue and does it. -/
def step (s : State) : Host.Outcome State Fault Refusal := runEvent s.nextEvent s.takeEvent

/-- `s` with a table word where the next step fetches (log entry 21). -/
def State.withFetchWord (s : State) (nbits w : Nat) : State := placeWord s (tableWord nbits w)

end Sys2Proof.Machine
end

