-- ==== Sys2Proof/Safety.lean ====
section
/-! DEFINITION. What claims are stated in: halted blocks, the end of a run, the invariant of the machine. -/

namespace Sys2Proof.Machine

/-- The block is halted: a fatal error has been recorded (R32, R239). -/
abbrev State.halted (s : State) : Prop := s.fault.isSome = true

/-- The block can take `Exec` and `Tick` events: usable (R263) and not halted (R105). -/
abbrev State.live (s : State) : Prop := s.phase ≠ .unusable ∧ s.fault = none

/-- Two states agree on the spec's whole tuple of R37. -/
abbrev State.SameArch (s t : State) : Prop :=
  t.mem = s.mem ∧ t.v = s.v ∧ t.i = s.i ∧ t.pc = s.pc ∧ t.stack = s.stack ∧ t.dt = s.dt ∧ t.st = s.st ∧ t.grid = s.grid ∧
    t.fault = s.fault

/-- Two states agree on the model's own fields. -/
abbrev State.SameOwn (s t : State) : Prop :=
  t.stackDepth = s.stackDepth ∧ t.phase = s.phase ∧ t.input = s.input ∧ t.env = s.env

/-- The end of a run (R277): the block is live and the instruction at `pc` is a jump to its own address. A halted block is never
at the end (R239). -/
abbrev State.finished (s : State) : Prop :=
  s.live ∧ ∃ nnn : Addr12, s.fetch = .ok (encode (.jp nnn)) ∧ s.pc = zextAddr nnn

/-- A fault record says what R230 and R237 allow for its cause. -/
def FaultRecord.consistent (r : FaultRecord) : Prop :=
  match r.cause with
  | .illegalInstruction => wordLegal r.faultWord = false ∧ r.faultAddr = 0
  | .stackUnderflow => r.faultWord = encode .ret ∧ r.faultAddr = 0
  | .memoryOutOfRange => Config.memSize ≤ r.faultAddr.toNat
  | .stackOverflow => opField r.faultWord = 0x2 ∧ r.faultAddr = 0
  | .keyIndexOutOfRange => opField r.faultWord = 0xE ∧ 15 < r.faultAddr.toNat ∧ r.faultAddr.toNat < 256

/-- The invariant of the machine between events. -/
structure State.Inv (s : State) : Prop where
  /-- memory is in its canonical form, so no address at or above 4096 is listed (R50) -/
  memory : Memory.wf s.mem = true
  /-- "the largest values `pc` can take are 0x1002 ... and 0x10FE" (R25) -/
  pcBound : s.pc.toNat ≤ 0x10FE
  /-- every return address is "some earlier `pc_next`, in 0x0002..0x1000" (R120) -/
  returnAddresses : ∀ a ∈ s.stack, 0x0002 ≤ a.toNat ∧ a.toNat ≤ 0x1000
  /-- the stack never holds more than `STACK_DEPTH` entries (R29) -/
  depth : ∀ d, s.stackDepth = some d → s.stack.length ≤ d
  /-- no input is kept between events (R36) -/
  noInput : s.input = .idle
  /-- `fault_pc` is the value of `pc` after the fault, and nothing changes afterwards (R237, R239) -/
  record : ∀ r, s.fault = some r → r.faultPc = s.pc ∧ r.consistent
  /-- only a block that has left the reset state can be halted (R261, R263) -/
  latched : s.fault ≠ none → s.phase = .running

/-! ### What statements about instructions are written with -/

/-- The registers an instruction may write, from the table of R21: the destination, and VF where it is written as a flag. -/
def writesReg (i : Instr) (q : RegIx) : Prop :=
  match i with
  | .ldVxNn x _ | .addVxNn x _ | .rnd x _ => q = x
  | .ldVxVy x _ | .or x _ | .and x _ | .xor x _ => q = x
  | .addVxVy x _ | .sub x _ | .shr x _ | .subn x _ | .shl x _ => q = x ∨ q = vf
  | .drw _ _ _ => q = vf
  | .ldVxDt x | .ldVxK x => q = x
  | .ldVxMi x => q.val ≤ x.val
  | .cls | .ret | .jp _ | .call _ | .ldINnn _ | .jpV0 _ => False
  | .seVxNn _ _ | .sneVxNn _ _ | .seVxVy _ _ | .sneVxVy _ _ | .skp _ | .sknp _ => False
  | .ldDtVx _ | .ldStVx _ | .addIVx _ | .ldFVx _ | .ldBVx _ | .ldMiVx _ => False

/-- Where the body of an instruction that does not fault leaves `pc`, from the table of R24; `s.pc` is `a + 2`. -/
def pcAfter (i : Instr) (s : State) : Word :=
  match i with
  | .ret => s.stack.getLast?.getD 0
  | .jp nnn | .call nnn => zextAddr nnn
  | .seVxNn x nn => if s.reg x = nn then s.pc + 2 else s.pc
  | .sneVxNn x nn => if s.reg x ≠ nn then s.pc + 2 else s.pc
  | .seVxVy x y => if s.reg x = s.reg y then s.pc + 2 else s.pc
  | .sneVxVy x y => if s.reg x ≠ s.reg y then s.pc + 2 else s.pc
  | .skp x => if s.input.keys.getLsbD (s.reg x).toNat = true then s.pc + 2 else s.pc
  | .sknp x => if s.input.keys.getLsbD (s.reg x).toNat = false then s.pc + 2 else s.pc
  | .jpV0 nnn => zextAddr nnn + zextByte (s.reg 0)
  | .ldVxK _ => if s.input.keys = 0 then s.pc - 2 else s.pc
  | .cls | .ldINnn _ | .ldVxNn _ _ | .addVxNn _ _ | .rnd _ _ | .drw _ _ _ => s.pc
  | .ldVxVy _ _ | .or _ _ | .and _ _ | .xor _ _ | .addVxVy _ _ | .sub _ _ | .shr _ _ | .subn _ _ | .shl _ _ => s.pc
  | .ldVxDt _ | .ldDtVx _ | .ldStVx _ | .addIVx _ | .ldFVx _ | .ldBVx _ | .ldMiVx _ | .ldVxMi _ => s.pc

/-- The one cause an instruction can raise, if it can raise any (R238). -/
def ownCause : Instr → Option FaultCause
  | .ret => some .stackUnderflow
  | .call _ => some .stackOverflow
  | .skp _ | .sknp _ => some .keyIndexOutOfRange
  | .drw _ _ _ | .ldBVx _ | .ldMiVx _ | .ldVxMi _ => some .memoryOutOfRange
  | .cls | .jp _ | .jpV0 _ | .ldINnn _ | .seVxNn _ _ | .sneVxNn _ _ | .seVxVy _ _ | .sneVxVy _ _ => none
  | .ldVxNn _ _ | .addVxNn _ _ | .ldVxVy _ _ | .or _ _ | .and _ _ | .xor _ _ | .rnd _ _ => none
  | .addVxVy _ _ | .sub _ _ | .shr _ _ | .subn _ _ | .shl _ _ => none
  | .ldVxDt _ | .ldVxK _ | .ldDtVx _ | .ldStVx _ | .addIVx _ | .ldFVx _ => none

/-- The state a fault leaves (R236, R237), written out: `pc` at the faulting instruction again and the latch set. -/
def faulted (s : State) (cause : FaultCause) (addr : Nat) : State :=
  { s with
    pc := s.input.fetchPc
    fault := some ⟨cause, s.input.fetchPc, s.input.fetchWord, BitVec.ofNat 16 addr⟩ }

/-- The byte at `a` once the bytes `bs` have been stored from `I` on. -/
def storedOver (s : State) (bs : List Byte) (a : Nat) : Byte :=
  if s.i.toNat ≤ a ∧ a < s.i.toNat + bs.length then bs.getD (a - s.i.toNat) 0 else s.mem.byteAt a

/-- The next event is a `Tick`, or an `Exec` of anything but `Fx18` (the other events start a new session, R262). -/
def State.nextKeepsSound (s : State) : Prop :=
  match s.nextEvent with
  | .tick => True
  | .exec _ _ => ∀ x, s.fetch ≠ .ok (encode (.ldStVx x))
  | .reset | .load _ => False

/-- How many of the first `k` steps of a run take a `Tick` event. -/
def ticksBefore (r : Nat → State) (k : Nat) : Nat := ((List.range k).filter (fun j => (r j).nextEvent = .tick)).length

/-- `rows` of R191: how many rows of the sprite are drawn. -/
def spriteRows (s : State) (y : RegIx) (n : Nibble) : Nat := min n.toNat (32 - (s.reg y).toNat % 32)

/-- `bit(r, c)` of R199: whether grid position `(r, c)` receives a sprite bit that is 1. -/
def spriteBit (s : State) (x y : RegIx) (n : Nibble) (r c : Nat) : Bool :=
  decide ((s.reg y).toNat % 32 ≤ r ∧ r < (s.reg y).toNat % 32 + spriteRows s y n ∧
      (s.reg x).toNat % 64 ≤ c ∧ c < min ((s.reg x).toNat % 64 + 8) 64) &&
    (s.mem.byteAt (s.i.toNat + (r - (s.reg y).toNat % 32))).getLsbD (7 - (c - (s.reg x).toNat % 64))

end Sys2Proof.Machine
end

