-- ==== Sys2Proof/Certificates/Slice0/Obligations.lean ====
section
/-! DEFINITION. The statements for the provers. In a statement about `exec` the state is the one the body sees: `s.pc` is
`pc_next`, the address of the instruction plus 2 (R102). A record update `{ s with … }` says that every other field of the state,
so all of memory, every register, flag, timer, pixel and the latch, is unchanged. -/

open Sys2Proof Sys2Proof.Machine

/-! ### Encoding -/

/-- 30_encoding.md R82, R86, R93: no bit of an operand is dropped, for every instruction and every operand value. -/
def Obligations.DecodeOfEncodeIsTheInstruction : Prop :=
  ∀ i : Instr, decode (encode i) = .ok i

/-- 30_encoding.md R86, R89: a word has one meaning, and the ignored `y` of `8xy6` and `8xyE` is kept. -/
def Obligations.EncodeOfDecodeIsTheWord : Prop :=
  ∀ (w : Word) (i : Instr), decode w = .ok i → encode i = w

/-- 30_encoding.md R86: 34 rows; a word is the instruction of a row iff `w & mask == match`; the rows are mutually exclusive. -/
def Obligations.OpcodeMapDecidesTheInstruction : Prop :=
  opcodeTable.length = 34 ∧
  (∀ (w : Word) (row : OpcodeRow), row ∈ opcodeTable →
    ((w &&& row.mask = row.bits) ↔ ∃ i, decode w = .ok i ∧ i.row = row)) ∧
  (∀ (w : Word) (r₁ r₂ : OpcodeRow), r₁ ∈ opcodeTable → r₂ ∈ opcodeTable →
    w &&& r₁.mask = r₁.bits → w &&& r₂.mask = r₂.bits → r₁ = r₂)

/-- 30_encoding.md R84, R85, R87 (the family table; its counts are not stated here): decoding is total, and the words rejected,
by name, are exactly those of the table. -/
def Obligations.IllegalWordsAreThoseOfTheFamilyTable : Prop :=
  ∀ w : Word,
    (∀ e, decode w = .error e → e = .illegalWord w) ∧
    (decode w = .error (.illegalWord w) ↔
      (opField w = 0x0 ∧ nnnField w ≠ 0x0E0 ∧ nnnField w ≠ 0x0EE) ∨
      (opField w = 0x5 ∧ nField w ≠ 0) ∨
      (opField w = 0x8 ∧ 8 ≤ (nField w).toNat ∧ nField w ≠ 0xE) ∨
      (opField w = 0x9 ∧ nField w ≠ 0) ∨
      (opField w = 0xE ∧ nnField w ≠ 0x9E ∧ nnField w ≠ 0xA1) ∨
      (opField w = 0xF ∧ nnField w ≠ 0x07 ∧ nnField w ≠ 0x0A ∧ nnField w ≠ 0x15 ∧ nnField w ≠ 0x18 ∧ nnField w ≠ 0x1E ∧
        nnField w ≠ 0x29 ∧ nnField w ≠ 0x33 ∧ nnField w ≠ 0x55 ∧ nnField w ≠ 0x65))

/-- Words the spec writes out, one or more of each of the 16 families (the top nibble, R12), decode to the instruction they stand
for, and an illegal word is rejected; the first byte is the high one (R54). Sources: R110 (6005, 8014), R121 to R127 (1234, 2300, 332A,
432A, 5120, 9120, B300), R141 (7102), R151 (C30F), R170 (A2F0), R175 (F255), R211 (E4A1), R212 (F30A), 95_test_vectors.md (8AB6, D12F,
5121). The rejection of a lone byte is the model's own. -/
def Obligations.WordsOfTheSpecDecode : Prop :=
  decodeBytes [0x00, 0xEE] = .ok (.ret, []) ∧
  decodeBytes [0x12, 0x34] = .ok (.jp 0x234, []) ∧
  decodeBytes [0x23, 0x00] = .ok (.call 0x300, []) ∧
  decodeBytes [0x33, 0x2A] = .ok (.seVxNn 3 0x2A, []) ∧
  decodeBytes [0x43, 0x2A] = .ok (.sneVxNn 3 0x2A, []) ∧
  decodeBytes [0x51, 0x20] = .ok (.seVxVy 1 2, []) ∧
  decodeBytes [0x60, 0x05] = .ok (.ldVxNn 0 0x05, []) ∧
  decodeBytes [0x71, 0x02] = .ok (.addVxNn 1 0x02, []) ∧
  decodeBytes [0x80, 0x14] = .ok (.addVxVy 0 1, []) ∧
  decodeBytes [0x8A, 0xB6] = .ok (.shr 0xA 0xB, []) ∧
  decodeBytes [0x91, 0x20] = .ok (.sneVxVy 1 2, []) ∧
  decodeBytes [0xA2, 0xF0] = .ok (.ldINnn 0x2F0, []) ∧
  decodeBytes [0xB3, 0x00] = .ok (.jpV0 0x300, []) ∧
  decodeBytes [0xC3, 0x0F] = .ok (.rnd 3 0x0F, []) ∧
  decodeBytes [0xD1, 0x2F] = .ok (.drw 1 2 0xF, []) ∧
  decodeBytes [0xE4, 0xA1] = .ok (.sknp 4, []) ∧
  decodeBytes [0xF3, 0x0A] = .ok (.ldVxK 3, []) ∧
  decodeBytes [0xF2, 0x55] = .ok (.ldMiVx 2, []) ∧
  decodeBytes [0x51, 0x21] = .error (.illegalWord 0x5121) ∧
  decodeBytes [0x60] = .error .truncated

/-! ### The step and its events -/

/-- 40_fetch_decode_cycle.md R101 to R103, R106, R107: where the two bytes at `pc` decode to `i`, an `Exec` step is the body of
`i` on the state with `pc` advanced by 2, with the inputs of the event and the fetched word in `input`; afterwards `input` is idle
again. It holds for listed `Exec` events and for those drawn from the free values (the model's own, log entry 2). -/
def Obligations.StepRunsTheDecodedInstruction : Prop :=
  ∀ (s : State) (keys : BitVec 16) (rnd : Byte) (i : Instr),
    s.live → s.nextEvent = .exec keys rnd → s.pc.toNat ≤ 0x0FFE →
    decodeBytes [s.mem.byteAt s.pc.toNat, s.mem.byteAt (s.pc.toNat + 1)] = .ok (i, []) →
    ∃ t,
      exec i { s with
        pc := s.pc + 2
        phase := .running
        env := Env.afterTaking s.env
        input := ⟨keys, rnd, s.pc, s.mem.byteAt s.pc.toNat ++ s.mem.byteAt (s.pc.toNat + 1)⟩ } = .next t ∧
      step s = .next { t with input := .idle }

/-- 40_fetch_decode_cycle.md R101, 60_exceptions.md R233 (the latch is the spec's decision D3): a fetch with `pc >= 0x0FFF`
records `MemoryOutOfRange` with the lowest address out of range and `fault_word` 0, and nothing else happens. -/
def Obligations.FetchOutOfRangeFaults : Prop :=
  ∀ (s : State) (keys : BitVec 16) (rnd : Byte),
    s.live → s.nextEvent = .exec keys rnd → 0x0FFF ≤ s.pc.toNat →
    step s = .next { s with
      phase := .running
      env := Env.afterTaking s.env
      input := .idle
      fault := some ⟨.memoryOutOfRange, s.pc, 0, if s.pc = 0x0FFF then 0x1000 else s.pc⟩ }

/-- 30_encoding.md R87, 60_exceptions.md R231 (the latch is the spec's decision D3): executing an illegal word records
`IllegalInstruction` with the word, and nothing else happens. -/
def Obligations.IllegalWordFaults : Prop :=
  ∀ (s : State) (keys : BitVec 16) (rnd : Byte),
    s.live → s.nextEvent = .exec keys rnd → s.pc.toNat ≤ 0x0FFE →
    wordLegal (s.mem.byteAt s.pc.toNat ++ s.mem.byteAt (s.pc.toNat + 1)) = false →
    step s = .next { s with
      phase := .running
      env := Env.afterTaking s.env
      input := .idle
      fault := some ⟨.illegalInstruction, s.pc, s.mem.byteAt s.pc.toNat ++ s.mem.byteAt (s.pc.toNat + 1), 0⟩ }

/-- 40_fetch_decode_cycle.md R105, 45_keys_timers.md R223 (the spec's decisions D3, D15; log entry 8): on a halted block `Exec`
changes nothing and `Tick` changes nothing and gives no tone. -/
def Obligations.HaltedBlockIgnoresExecAndTick : Prop :=
  ∀ s : State, s.halted → s.phase ≠ .unusable →
    (∀ keys rnd, s.nextEvent = .exec keys rnd → ∃ t, step s = .next t ∧ s.SameArch t ∧ t.env.tone = none) ∧
    (s.nextEvent = .tick → ∃ t, step s = .next t ∧ s.SameArch t ∧ t.env.tone = some false)

/-- 60_exceptions.md R239 (the latch is the spec's decision D3): the latch is sticky; of all events only `Reset` clears it. -/
def Obligations.OnlyResetClearsTheFaultLatch : Prop :=
  ∀ s t : State, s.halted → step s = .next t →
    (s.nextEvent = .reset → t.fault = none) ∧ (s.nextEvent ≠ .reset → t.fault = s.fault)

/-- 10_state.md R38, R39, 70_reset_and_hazards.md R260 (the latch's value is the spec's decision D3; `FONT` is named and its bytes
are not used): what the reset state holds. -/
def Obligations.ResetStateIsFullySpecified : Prop :=
  font.length = 80 ∧
  (∀ a, State.reset.mem.byteAt a = if 0x050 ≤ a ∧ a ≤ 0x09F then font.getD (a - 0x050) 0 else 0) ∧
  (∀ q, State.reset.reg q = 0) ∧ State.reset.i = 0 ∧ State.reset.pc = 0x0200 ∧ State.reset.stack = [] ∧
  State.reset.dt = 0 ∧ State.reset.st = 0 ∧ (∀ r c, Grid.get State.reset.grid r c = false) ∧ State.reset.fault = none

/-- 70_reset_and_hazards.md R260 (a reset that can be applied again is the spec's decision D1): from every state, halted or
unusable included, a `Reset` event gives the reset state; the parameter `STACK_DEPTH` (R36) and the events to come stay. -/
def Obligations.ResetEventRestoresTheResetState : Prop :=
  ∀ s : State, s.nextEvent = .reset →
    step s = .next { State.reset with stackDepth := s.stackDepth, env := Env.afterTaking s.env }

/-- 70_reset_and_hazards.md R263: in the reset state an image of at most 3584 bytes is copied verbatim to 0x200 upward, and
nothing else changes. -/
def Obligations.LoadCopiesTheImage : Prop :=
  ∀ (s : State) (image : List Byte), s.phase = .fresh → Memory.wf s.mem = true → s.nextEvent = .load image →
    image.length ≤ 3584 →
    ∃ t, step s = .next t ∧
      (∀ k, k < image.length → t.mem.byteAt (0x200 + k) = image.getD k 0) ∧
      (∀ a, a < 0x200 ∨ 0x200 + image.length ≤ a → t.mem.byteAt a = s.mem.byteAt a) ∧
      t = { s with mem := t.mem, phase := .running, env := Env.afterTaking s.env }

/-- 70_reset_and_hazards.md R263 (the refusal is the spec's decision D14; its form is the model's, log entry 7): an image that
does not fit is not loaded and leaves the block unusable, where every event but `Reset` is refused; a `Load` outside the reset state
is refused. -/
def Obligations.LoadThatIsNotAllowedIsRefused : Prop :=
  ∀ (s : State) (image : List Byte),
    (s.phase = .fresh → s.nextEvent = .load image → 3584 < image.length →
      step s = .next { s with phase := .unusable, env := Env.afterTaking s.env }) ∧
    (s.phase = .running → s.nextEvent = .load image → step s = .refused .loadOutsideReset) ∧
    (s.phase = .unusable → s.nextEvent ≠ .reset → step s = .refused .blockUnusable)

/-- 45_keys_timers.md R220, R221 (on a block that is not halted; the other case is HaltedBlockIgnoresExecAndTick): each timer counts
down and floors at zero, the tone bit says whether `ST` was nonzero before, and nothing else changes. -/
def Obligations.TickCountsBothTimersDown : Prop :=
  ∀ s : State, s.live → s.nextEvent = .tick →
    ∃ t, step s = .next t ∧
      t.dt.toNat = s.dt.toNat - 1 ∧ t.st.toNat = s.st.toNat - 1 ∧
      t.env = { Env.afterTaking s.env with tone := some (decide (s.st ≠ 0)) } ∧
      t = { s with dt := t.dt, st := t.st, phase := .running, env := t.env }

/-- 45_keys_timers.md R221 (marked derived there): in a run of a block that stays live, of `Tick` events and of `Exec` events that
run no `Fx18`, in any interleaving (R222), exactly the first `ST` ticks give a tone, `ST` being its value at the start. Consecutive
ticks are the run with no `Exec` event. -/
def Obligations.ToneLastsAsManyTicksAsSoundTimer : Prop :=
  ∀ (r : Nat → State) (k : Nat),
    (∀ j, j ≤ k → (r j).live ∧ (r j).nextKeepsSound ∧ step (r j) = .next (r (j + 1))) → (r k).nextEvent = .tick →
    (r (k + 1)).env.tone = some (decide (ticksBefore r k < (r 0).st.toNat))

/-- 70_reset_and_hazards.md R262, R263: the only events the block refuses are those R263 refuses; every other step answers a next
state, and no step ends in the outcome `fault`. -/
def Obligations.OnlyRefusedLoadsStopTheMachine : Prop :=
  ∀ s : State,
    (∃ t, step s = .next t) ∨
    (s.phase = .unusable ∧ s.nextEvent ≠ .reset ∧ step s = .refused .blockUnusable) ∨
    (s.phase = .running ∧ (∃ image, s.nextEvent = .load image) ∧ step s = .refused .loadOutsideReset)

/-- The host's placing of one word (log entry 21): from every state, the very next step runs exactly the instruction of that
word, on the registers, timers, stack and grid of that state. -/
def Obligations.PlacedWordIsRunByTheNextStep : Prop :=
  ∀ (s : State) (w : Nat) (i : Instr), Memory.wf s.mem = true → decodeTableWord 16 w = some i →
    ∃ u t, exec i u = .next t ∧ step (s.withFetchWord 16 w) = .next { t with input := .idle } ∧
      u.pc = u.input.fetchPc + 2 ∧ u.input.fetchWord = BitVec.ofNat 16 w ∧
      u.v = s.v ∧ u.i = s.i ∧ u.stack = s.stack ∧ u.dt = s.dt ∧ u.st = s.st ∧ u.grid = s.grid

/-! ### Loads, arithmetic, logic, shifts (42_alu.md) -/

/-- 42_alu.md R140, R142. -/
def Obligations.RegisterLoads : Prop :=
  ∀ (x y : RegIx) (nn : Byte) (s : State),
    (encode (.ldVxNn x nn)).toNat = 0x6000 + 0x100 * x.val + nn.toNat ∧
    exec (.ldVxNn x nn) s = .next { s with v := s.v.set x.val nn } ∧
    (encode (.ldVxVy x y)).toNat = 0x8000 + 0x100 * x.val + 0x10 * y.val ∧
    exec (.ldVxVy x y) s = .next { s with v := s.v.set x.val (s.reg y) }

/-- 42_alu.md R141. -/
def Obligations.AddImmediateWrapsWithoutFlag : Prop :=
  ∀ (x : RegIx) (nn : Byte) (s : State),
    (encode (.addVxNn x nn)).toNat = 0x7000 + 0x100 * x.val + nn.toNat ∧
    exec (.addVxNn x nn) s =
      .next { s with v := s.v.set x.val (BitVec.ofNat 8 (((s.reg x).toNat + nn.toNat) % 256)) }

/-- 42_alu.md R143 to R145. -/
def Obligations.LogicLeavesTheFlagAlone : Prop :=
  ∀ (x y : RegIx) (s : State),
    (encode (.or x y)).toNat = 0x8001 + 0x100 * x.val + 0x10 * y.val ∧
    exec (.or x y) s = .next { s with v := s.v.set x.val (s.reg x ||| s.reg y) } ∧
    (encode (.and x y)).toNat = 0x8002 + 0x100 * x.val + 0x10 * y.val ∧
    exec (.and x y) s = .next { s with v := s.v.set x.val (s.reg x &&& s.reg y) } ∧
    (encode (.xor x y)).toNat = 0x8003 + 0x100 * x.val + 0x10 * y.val ∧
    exec (.xor x y) s = .next { s with v := s.v.set x.val (s.reg x ^^^ s.reg y) }

/-- 42_alu.md R153: the table of flag outcomes, for operands other than VF. -/
def Obligations.FlagOutcomesWithoutVfOperand : Prop :=
  ∀ (x y : RegIx) (s : State), x ≠ vf → y ≠ vf →
    (∃ t, exec (.addVxVy x y) s = .next t ∧
      (t.reg x).toNat = ((s.reg x).toNat + (s.reg y).toNat) % 256 ∧
      t.reg vf = (if (s.reg x).toNat + (s.reg y).toNat > 255 then 1 else 0)) ∧
    (∃ t, exec (.sub x y) s = .next t ∧
      ((t.reg x).toNat : Int) = (((s.reg x).toNat : Int) - (s.reg y).toNat) % 256 ∧
      t.reg vf = (if (s.reg x).toNat ≥ (s.reg y).toNat then 1 else 0)) ∧
    (∃ t, exec (.shr x y) s = .next t ∧
      (t.reg x).toNat = (s.reg x).toNat / 2 ∧ (t.reg vf).toNat = (s.reg x).toNat % 2) ∧
    (∃ t, exec (.subn x y) s = .next t ∧
      ((t.reg x).toNat : Int) = (((s.reg y).toNat : Int) - (s.reg x).toNat) % 256 ∧
      t.reg vf = (if (s.reg y).toNat ≥ (s.reg x).toNat then 1 else 0)) ∧
    (∃ t, exec (.shl x y) s = .next t ∧
      (t.reg x).toNat = 2 * (s.reg x).toNat % 256 ∧ (t.reg vf).toNat = (s.reg x).toNat / 128)

/-- 42_alu.md R154, row `8xy4` and `8xy6`, `8xyE` (the statement order is the spec's decision D6, log entry 11). -/
def Obligations.AddAndShiftsWithVfOperand : Prop :=
  ∀ (x y : RegIx) (s : State),
    (∃ t, exec (.addVxVy vf y) s = .next t ∧
      t.reg vf = (if (s.reg vf).toNat + (s.reg y).toNat > 255 then 1 else 0)) ∧
    (x ≠ vf → ∃ t, exec (.addVxVy x vf) s = .next t ∧
      (t.reg x).toNat = ((s.reg x).toNat + (s.reg vf).toNat) % 256 ∧
      t.reg vf = (if (s.reg x).toNat + (s.reg vf).toNat > 255 then 1 else 0)) ∧
    (∃ t, exec (.shr vf y) s = .next t ∧ t.reg vf = 0) ∧
    (x ≠ vf → ∃ t, exec (.shr x vf) s = .next t ∧
      (t.reg x).toNat = (s.reg x).toNat / 2 ∧ (t.reg vf).toNat = (s.reg x).toNat % 2) ∧
    (∃ t, exec (.shl vf y) s = .next t ∧ t.reg vf = (if (s.reg vf).toNat ≥ 128 then 2 else 0)) ∧
    (x ≠ vf → ∃ t, exec (.shl x vf) s = .next t ∧
      (t.reg x).toNat = 2 * (s.reg x).toNat % 256 ∧ (t.reg vf).toNat = (s.reg x).toNat / 128)

/-- 42_alu.md R154, rows `8xy5` and `8xy7` (the statement order is the spec's decision D6, log entry 11): the second statement
reads the flag that the first one wrote. -/
def Obligations.SubtractionsWithVfOperand : Prop :=
  ∀ (x y : RegIx) (s : State), x ≠ vf → y ≠ vf →
    (∃ t, exec (.sub vf y) s = .next t ∧
      ((t.reg vf).toNat : Int) = ((if (s.reg vf).toNat ≥ (s.reg y).toNat then 1 else 0) - ((s.reg y).toNat : Int)) % 256) ∧
    (∃ t, exec (.sub x vf) s = .next t ∧
      ((t.reg x).toNat : Int) = (((s.reg x).toNat : Int) - (if (s.reg x).toNat ≥ (s.reg vf).toNat then 1 else 0)) % 256 ∧
      t.reg vf = (if (s.reg x).toNat ≥ (s.reg vf).toNat then 1 else 0)) ∧
    (∃ t, exec (.sub vf vf) s = .next t ∧ t.reg vf = 0) ∧
    (∃ t, exec (.subn vf y) s = .next t ∧
      ((t.reg vf).toNat : Int) = (((s.reg y).toNat : Int) - (if (s.reg y).toNat ≥ (s.reg vf).toNat then 1 else 0)) % 256) ∧
    (∃ t, exec (.subn x vf) s = .next t ∧
      ((t.reg x).toNat : Int) = ((if (s.reg vf).toNat ≥ (s.reg x).toNat then 1 else 0) - ((s.reg x).toNat : Int)) % 256 ∧
      t.reg vf = (if (s.reg vf).toNat ≥ (s.reg x).toNat then 1 else 0)) ∧
    (∃ t, exec (.subn vf vf) s = .next t ∧ t.reg vf = 0)

/-- 42_alu.md R151 (the random byte as an input is the spec's decision D13): the register takes the event's random byte under the
mask, for every random byte, and no bit outside the mask is set. -/
def Obligations.RandomByteIsMasked : Prop :=
  ∀ (x : RegIx) (nn : Byte) (s : State),
    (encode (.rnd x nn)).toNat = 0xC000 + 0x100 * x.val + nn.toNat ∧
    exec (.rnd x nn) s = .next { s with v := s.v.set x.val (s.input.rnd &&& nn) } ∧
    s.input.rnd &&& nn &&& ~~~nn = 0

/-! ### Control transfer (41_control_flow.md) -/

/-- 41_control_flow.md R121. -/
def Obligations.JumpSetsPc : Prop :=
  ∀ (nnn : Addr12) (s : State),
    (encode (.jp nnn)).toNat = 0x1000 + nnn.toNat ∧
    ∃ t, exec (.jp nnn) s = .next t ∧ t.pc.toNat = nnn.toNat ∧ t = { s with pc := t.pc }

/-- 41_control_flow.md R127 (the sum kept whole is the spec's decision D26): always `V[0]`, an exact sum of at most 0x10FE. -/
def Obligations.JumpWithOffsetAddsV0 : Prop :=
  ∀ (nnn : Addr12) (s : State),
    (encode (.jpV0 nnn)).toNat = 0xB000 + nnn.toNat ∧
    ∃ t, exec (.jpV0 nnn) s = .next t ∧ t.pc.toNat = nnn.toNat + (s.reg 0).toNat ∧ t.pc.toNat ≤ 0x10FE ∧
      t = { s with pc := t.pc }

/-- 41_control_flow.md R123 to R126 and R128: a skip at address `a` goes to `a + 4` if its condition holds and to `a + 2`
otherwise, and changes nothing else. -/
def Obligations.SkipsAdvanceByFourOrTwo : Prop :=
  ∀ (x y : RegIx) (nn : Byte) (a : Word) (s : State), a.toNat ≤ 0x0FFE → s.pc = a + 2 →
    (encode (.seVxNn x nn)).toNat = 0x3000 + 0x100 * x.val + nn.toNat ∧
    (encode (.sneVxNn x nn)).toNat = 0x4000 + 0x100 * x.val + nn.toNat ∧
    (encode (.seVxVy x y)).toNat = 0x5000 + 0x100 * x.val + 0x10 * y.val ∧
    (encode (.sneVxVy x y)).toNat = 0x9000 + 0x100 * x.val + 0x10 * y.val ∧
    (∃ t, exec (.seVxNn x nn) s = .next t ∧ t = { s with pc := t.pc } ∧
      t.pc.toNat = a.toNat + (if s.reg x = nn then 4 else 2)) ∧
    (∃ t, exec (.sneVxNn x nn) s = .next t ∧ t = { s with pc := t.pc } ∧
      t.pc.toNat = a.toNat + (if s.reg x ≠ nn then 4 else 2)) ∧
    (∃ t, exec (.seVxVy x y) s = .next t ∧ t = { s with pc := t.pc } ∧
      t.pc.toNat = a.toNat + (if s.reg x = s.reg y then 4 else 2)) ∧
    (∃ t, exec (.sneVxVy x y) s = .next t ∧ t = { s with pc := t.pc } ∧
      t.pc.toNat = a.toNat + (if s.reg x ≠ s.reg y then 4 else 2)) ∧
    ((s.reg x).toNat ≤ 15 →
      (∃ t, exec (.skp x) s = .next t ∧ t = { s with pc := t.pc } ∧
        t.pc.toNat = a.toNat + (if s.input.keys.getLsbD (s.reg x).toNat = true then 4 else 2)) ∧
      (∃ t, exec (.sknp x) s = .next t ∧ t = { s with pc := t.pc } ∧
        t.pc.toNat = a.toNat + (if s.input.keys.getLsbD (s.reg x).toNat = false then 4 else 2)))

/-- 41_control_flow.md R122 (the depth is the spec's decision D5): a call pushes `pc_next` and jumps, whenever `STACK_DEPTH` is
unbounded or the stack is below it; the register file and memory get no link. -/
def Obligations.CallPushesPcNext : Prop :=
  ∀ (nnn : Addr12) (s : State),
    (encode (.call nnn)).toNat = 0x2000 + nnn.toNat ∧
    ((∀ d, s.stackDepth = some d → s.stack.length < d) →
      exec (.call nnn) s = .next { s with stack := s.stack ++ [s.pc], pc := BitVec.ofNat 16 nnn.toNat })

/-- 41_control_flow.md R120: a return takes the most recently pushed value as it is and shortens the stack by one. -/
def Obligations.ReturnPopsTheStack : Prop :=
  ∀ (s : State) (l : List Word) (a : Word), s.stack = l ++ [a] →
    encode .ret = 0x00EE ∧ exec .ret s = .next { s with stack := l, pc := a }

/-- 41_control_flow.md R120, R122, 60_exceptions.md R232, R234 (the spec's decisions D3, D5): a call on a full stack raises
`StackOverflow`, a return on an empty one `StackUnderflow`, and nothing else changes. -/
def Obligations.StackLimitsFault : Prop :=
  ∀ (nnn : Addr12) (s : State),
    (s.stackDepth = some s.stack.length → exec (.call nnn) s = .next (faulted s .stackOverflow 0)) ∧
    (s.stack = [] → exec .ret s = .next (faulted s .stackUnderflow 0))

/-- 41_control_flow.md R129: a call followed, however much later, by a return on the same stack resumes after the call and
leaves the stack as it was. -/
def Obligations.ReturnResumesAfterTheCall : Prop :=
  ∀ (nnn : Addr12) (s t u : State), s.fault = none → exec (.call nnn) s = .next t → t.fault = none → u.stack = t.stack →
    ∃ w, exec .ret u = .next w ∧ w.pc = s.pc ∧ w.stack = s.stack

/-- 40_fetch_decode_cycle.md R109 (marked derived there): a jump to its own address is a fixed point of `Exec`, for every `keys`
and `rnd`. -/
def Obligations.JumpToSelfIsAFixedPoint : Prop :=
  ∀ (s : State) (keys : BitVec 16) (rnd : Byte) (nnn : Addr12),
    s.live → s.nextEvent = .exec keys rnd → s.pc.toNat = nnn.toNat → nnn.toNat ≤ 0x0FFE →
    s.mem.byteAt nnn.toNat ++ s.mem.byteAt (nnn.toNat + 1) = encode (.jp nnn) →
    ∃ t, step s = .next t ∧ s.SameArch t

/-! ### Index register and memory transfer (43_index_memory.md) -/

/-- 43_index_memory.md R170, R173. -/
def Obligations.IndexLoads : Prop :=
  ∀ (nnn : Addr12) (x : RegIx) (s : State),
    (encode (.ldINnn nnn)).toNat = 0xA000 + nnn.toNat ∧
    (∃ t, exec (.ldINnn nnn) s = .next t ∧ t.i.toNat = nnn.toNat ∧ t = { s with i := t.i }) ∧
    (encode (.ldFVx x)).toNat = 0xF029 + 0x100 * x.val ∧
    (∃ t, exec (.ldFVx x) s = .next t ∧ t.i.toNat = 0x0050 + 5 * ((s.reg x) &&& 0x0F).toNat ∧ t = { s with i := t.i })

/-- 43_index_memory.md R172 (the wrap at 16 bits is the spec's decision D11). -/
def Obligations.AddToIndexWrapsWithoutFlag : Prop :=
  ∀ (x : RegIx) (s : State),
    (encode (.addIVx x)).toNat = 0xF01E + 0x100 * x.val ∧
    ∃ t, exec (.addIVx x) s = .next t ∧ t.i.toNat = (s.i.toNat + (s.reg x).toNat) % 65536 ∧ t = { s with i := t.i }

/-- 43_index_memory.md R174: the three digits, each a whole byte, or `MemoryOutOfRange` with no byte written
(the latch and its record are the spec's decisions D3, D20). -/
def Obligations.DecimalDigitsAreStored : Prop :=
  ∀ (x : RegIx) (s : State),
    (encode (.ldBVx x)).toNat = 0xF033 + 0x100 * x.val ∧
    (Memory.wf s.mem = true → s.i.toNat ≤ 0x0FFD →
      ∃ t, exec (.ldBVx x) s = .next t ∧
        (t.mem.byteAt s.i.toNat).toNat = (s.reg x).toNat / 100 ∧
        (t.mem.byteAt (s.i.toNat + 1)).toNat = (s.reg x).toNat / 10 % 10 ∧
        (t.mem.byteAt (s.i.toNat + 2)).toNat = (s.reg x).toNat % 10 ∧
        (∀ a, a < s.i.toNat ∨ s.i.toNat + 3 ≤ a → t.mem.byteAt a = s.mem.byteAt a) ∧
        t = { s with mem := t.mem }) ∧
    (0x0FFD < s.i.toNat → exec (.ldBVx x) s = .next (faulted s .memoryOutOfRange (max s.i.toNat 4096)))

/-- 43_index_memory.md R175: `V[0]` .. `V[x]` at `I` .. `I + x`, `I` unchanged, or `MemoryOutOfRange` with no byte written
(the latch and its record are the spec's decisions D3, D20). -/
def Obligations.RegistersAreStored : Prop :=
  ∀ (x : RegIx) (s : State),
    (encode (.ldMiVx x)).toNat = 0xF055 + 0x100 * x.val ∧
    (Memory.wf s.mem = true → s.i.toNat + x.val ≤ 0x0FFF →
      ∃ t, exec (.ldMiVx x) s = .next t ∧
        (∀ q : RegIx, q ≤ x → t.mem.byteAt (s.i.toNat + q.val) = s.reg q) ∧
        (∀ a, a < s.i.toNat ∨ s.i.toNat + x.val < a → t.mem.byteAt a = s.mem.byteAt a) ∧
        t = { s with mem := t.mem }) ∧
    (0x0FFF < s.i.toNat + x.val → exec (.ldMiVx x) s = .next (faulted s .memoryOutOfRange (max s.i.toNat 4096)))

/-- 43_index_memory.md R176: `V[0]` .. `V[x]` from `I` .. `I + x`, `I` unchanged, or `MemoryOutOfRange` with no register
written (the latch and its record are the spec's decisions D3, D20). -/
def Obligations.RegistersAreLoaded : Prop :=
  ∀ (x : RegIx) (s : State),
    (encode (.ldVxMi x)).toNat = 0xF065 + 0x100 * x.val ∧
    (s.i.toNat + x.val ≤ 0x0FFF →
      ∃ t, exec (.ldVxMi x) s = .next t ∧
        (∀ q : RegIx, t.reg q = if q ≤ x then s.mem.byteAt (s.i.toNat + q.val) else s.reg q) ∧
        t = { s with v := t.v }) ∧
    (0x0FFF < s.i.toNat + x.val → exec (.ldVxMi x) s = .next (faulted s .memoryOutOfRange (max s.i.toNat 4096)))

/-- 43_index_memory.md R175, R176 (the source's property S7): `Fx55` then `Fx65` with the same `x` and `I` gives back the stored
registers, whatever the registers held in between. -/
def Obligations.StoreThenLoadRoundTrips : Prop :=
  ∀ (x : RegIx) (s t u : State), Memory.wf s.mem = true → s.i.toNat + x.val ≤ 0x0FFF →
    exec (.ldMiVx x) s = .next t → u.mem = t.mem → u.i = s.i →
    ∃ w, exec (.ldVxMi x) u = .next w ∧ (∀ q : RegIx, q ≤ x → w.reg q = s.reg q) ∧ (∀ q : RegIx, x < q → w.reg q = u.reg q)

/-- 20_memory.md R63 (marked derived there): a store of `Fx33` or `Fx55` is seen by the very next fetch, from whatever address: a
fetch on any state with the memory the store left reads the stored bytes where it stored and the old bytes elsewhere, the lower
address in the high half. -/
def Obligations.StoredBytesAreFetchedNext : Prop :=
  ∀ (x : RegIx) (s t u : State), Memory.wf s.mem = true → u.mem = t.mem → u.pc.toNat ≤ 0x0FFE →
    (s.i.toNat ≤ 0x0FFD → exec (.ldBVx x) s = .next t →
      let digits : List Byte := [(s.reg x).toNat / 100, (s.reg x).toNat / 10 % 10, (s.reg x).toNat % 10].map (BitVec.ofNat 8)
      State.fetch u = .ok (storedOver s digits u.pc.toNat ++ storedOver s digits (u.pc.toNat + 1))) ∧
    (s.i.toNat + x.val ≤ 0x0FFF → exec (.ldMiVx x) s = .next t →
      State.fetch u = .ok (storedOver s (s.v.toList.take (x.val + 1)) u.pc.toNat ++
        storedOver s (s.v.toList.take (x.val + 1)) (u.pc.toNat + 1)))

/-- 20_memory.md R64: a store reaches memory only, and drawing, calling and returning never change memory. -/
def Obligations.StoresReachOnlyMemory : Prop :=
  ∀ (s t : State) (x y : RegIx) (n : Nibble) (nnn : Addr12),
    (exec (.ldBVx x) s = .next t ∨ exec (.ldMiVx x) s = .next t →
      t.grid = s.grid ∧ t.stack = s.stack ∧ t.v = s.v ∧ t.i = s.i ∧ t.dt = s.dt ∧ t.st = s.st) ∧
    (exec (.drw x y n) s = .next t ∨ exec (.call nnn) s = .next t ∨ exec .ret s = .next t →
      ∀ a, t.mem.byteAt a = s.mem.byteAt a)

/-! ### Display (44_display.md) -/

/-- 44_display.md R190. -/
def Obligations.ClearScreenClearsEveryPixel : Prop :=
  ∀ s : State, encode .cls = 0x00E0 ∧
    ∃ t, exec .cls s = .next t ∧ (∀ r c, Grid.get t.grid r c = false) ∧ t = { s with grid := t.grid }

/-- 44_display.md R199 (derived there from R191; with the spec's decisions D7 to D10, log entries 10, 12, 13): a draw in range
exclusive-ors the loop-free sprite function into the grid, and VF says whether a lit pixel met a sprite bit. Nothing else
changes. -/
def Obligations.DrawIsTheLoopFreeFunction : Prop :=
  ∀ (x y : RegIx) (n : Nibble) (s : State),
    (encode (.drw x y n)).toNat = 0xD000 + 0x100 * x.val + 0x10 * y.val + n.toNat ∧
    (spriteRows s y n = 0 ∨ s.i.toNat + spriteRows s y n ≤ 4096 →
      ∃ t, exec (.drw x y n) s = .next t ∧
        (∀ r c, r < 32 → c < 64 → Grid.get t.grid r c = (Grid.get s.grid r c ^^ spriteBit s x y n r c)) ∧
        ((t.reg vf = 1 ∧ ∃ r c, r < 32 ∧ c < 64 ∧ Grid.get s.grid r c = true ∧ spriteBit s x y n r c = true) ∨
          (t.reg vf = 0 ∧ ∀ r c, r < 32 → c < 64 → Grid.get s.grid r c = true → spriteBit s x y n r c = false)) ∧
        (∀ q, q ≠ vf → t.reg q = s.reg q) ∧
        t = { s with grid := t.grid, v := t.v })

/-- 44_display.md R197 (the spec's decisions D3, D10, D20): a draw faults exactly when a row that would be drawn lies at 4096 or
above, before VF is cleared and before any pixel changes; otherwise it leaves the latch as it was. -/
def Obligations.DrawOutOfRangeFaults : Prop :=
  ∀ (x y : RegIx) (n : Nibble) (s : State),
    (0 < spriteRows s y n → 4096 < s.i.toNat + spriteRows s y n →
      exec (.drw x y n) s = .next (faulted s .memoryOutOfRange (max s.i.toNat 4096))) ∧
    (spriteRows s y n = 0 ∨ s.i.toNat + spriteRows s y n ≤ 4096 →
      ∃ t, exec (.drw x y n) s = .next t ∧ t.fault = s.fault)

/-- 44_display.md R198 (derived there from R191): two identical draws one after the other restore the grid, and the second sets
VF if and only if the first turned at least one pixel on. -/
def Obligations.DrawingTwiceRestoresTheGrid : Prop :=
  ∀ (x y : RegIx) (n : Nibble) (s : State), x ≠ vf → y ≠ vf →
    (spriteRows s y n = 0 ∨ s.i.toNat + spriteRows s y n ≤ 4096) →
    ∃ t u, exec (.drw x y n) s = .next t ∧ exec (.drw x y n) t = .next u ∧ u.grid = s.grid ∧
      (u.reg vf = 1 ↔ ∃ r c, r < 32 ∧ c < 64 ∧ spriteBit s x y n r c = true ∧ Grid.get s.grid r c = false) ∧
      (u.reg vf = 0 ∨ u.reg vf = 1)

/-! ### Keys and timers (45_keys_timers.md) -/

/-- 45_keys_timers.md R210, R211, 60_exceptions.md R235 (the spec's decision D12): with a key number of at most 15 the skip looks
at that key of the event's snapshot; above 15 it raises `KeyIndexOutOfRange`. -/
def Obligations.KeySkipsTestOneKey : Prop :=
  ∀ (x : RegIx) (s : State),
    (encode (.skp x)).toNat = 0xE09E + 0x100 * x.val ∧ (encode (.sknp x)).toNat = 0xE0A1 + 0x100 * x.val ∧
    ((s.reg x).toNat ≤ 15 →
      exec (.skp x) s =
        .next { s with pc := if s.input.keys.getLsbD (s.reg x).toNat = true then s.pc + 2 else s.pc } ∧
      exec (.sknp x) s =
        .next { s with pc := if s.input.keys.getLsbD (s.reg x).toNat = true then s.pc else s.pc + 2 }) ∧
    (15 < (s.reg x).toNat →
      exec (.skp x) s = .next (faulted s .keyIndexOutOfRange (s.reg x).toNat) ∧
      exec (.sknp x) s = .next (faulted s .keyIndexOutOfRange (s.reg x).toNat))

/-- 45_keys_timers.md R212: with no key pressed only `pc` changes, to `pc_next - 2`; otherwise the lowest-numbered pressed key is
stored and `pc` stays. -/
def Obligations.KeyWaitTakesTheLowestKey : Prop :=
  ∀ (x : RegIx) (s : State),
    (encode (.ldVxK x)).toNat = 0xF00A + 0x100 * x.val ∧
    ((∀ k, k < 16 → s.input.keys.getLsbD k = false) → exec (.ldVxK x) s = .next { s with pc := s.pc - 2 }) ∧
    (∀ k, k < 16 → s.input.keys.getLsbD k = true → (∀ j, j < k → s.input.keys.getLsbD j = false) →
      exec (.ldVxK x) s = .next { s with v := s.v.set x.val (BitVec.ofNat 8 k) })

/-- 45_keys_timers.md R213 to R215. -/
def Obligations.TimerMoves : Prop :=
  ∀ (x : RegIx) (s : State),
    (encode (.ldVxDt x)).toNat = 0xF007 + 0x100 * x.val ∧
    exec (.ldVxDt x) s = .next { s with v := s.v.set x.val s.dt } ∧
    (encode (.ldDtVx x)).toNat = 0xF015 + 0x100 * x.val ∧
    exec (.ldDtVx x) s = .next { s with dt := s.reg x } ∧
    (encode (.ldStVx x)).toNat = 0xF018 + 0x100 * x.val ∧
    exec (.ldStVx x) s = .next { s with st := s.reg x }

/-! ### Rules of the whole machine -/

/-- Every instruction, on every state and every operand, has a next state: none of the 34 is refused and none stops the machine
(60_exceptions.md R236: a fatal error is an entry into the latch). -/
def Obligations.NoInstructionStopsTheMachine : Prop :=
  ∀ (i : Instr) (s : State), ∃ t, exec i s = .next t

/-- 10_state.md R21 (the column "writes") and R22: a register that the table does not name for the instruction is unchanged; VF
is written as a side effect by the six flag instructions only. -/
def Obligations.RegistersChangeOnlyByTheTable : Prop :=
  ∀ (i : Instr) (s t : State) (q : RegIx), exec i s = .next t → ¬ writesReg i q → t.reg q = s.reg q

/-- 40_fetch_decode_cycle.md R108, 10_state.md R26, R31, R33: the body changes only what its rule names. Memory changes by `Fx33` and
`Fx55` only, the stack by `2nnn` and `00EE`, the grid by `00E0` and `Dxyn`, `DT` by `Fx15`, `ST` by `Fx18`, `I` by `Annn`, `Fx1E`
and `Fx29`, the latch only by an instruction that has a cause of its own (R238); the model's own fields never. -/
def Obligations.StateChangesOnlyByItsOwners : Prop :=
  ∀ (i : Instr) (s t : State), exec i s = .next t →
    ((∀ x, i ≠ .ldBVx x ∧ i ≠ .ldMiVx x) → ∀ a, t.mem.byteAt a = s.mem.byteAt a) ∧
    ((∀ nnn, i ≠ .call nnn ∧ i ≠ .ret) → t.stack = s.stack) ∧
    ((∀ x y n, i ≠ .drw x y n ∧ i ≠ .cls) → t.grid = s.grid) ∧
    ((∀ x, i ≠ .ldDtVx x) → t.dt = s.dt) ∧
    ((∀ x, i ≠ .ldStVx x) → t.st = s.st) ∧
    ((∀ nnn x, i ≠ .ldINnn nnn ∧ i ≠ .addIVx x ∧ i ≠ .ldFVx x) → t.i = s.i) ∧
    (ownCause i = none → t.fault = s.fault) ∧
    s.SameOwn t

/-- 20_memory.md R51, 43_index_memory.md R171: the stores of `Fx33` and `Fx55` go to the effective addresses `I + offset`; every
byte outside them is unchanged, in range or not. -/
def Obligations.StoresTouchOnlyTheirBytes : Prop :=
  ∀ (x : RegIx) (s t : State) (a : Nat),
    (exec (.ldBVx x) s = .next t → (a < s.ea 0 ∨ s.ea 3 ≤ a) → t.mem.byteAt a = s.mem.byteAt a) ∧
    (exec (.ldMiVx x) s = .next t → (a < s.ea 0 ∨ s.ea (x.val + 1) ≤ a) → t.mem.byteAt a = s.mem.byteAt a)

/-- 10_state.md R24: how each instruction leaves `pc`, when it does not fault and when it does. -/
def Obligations.PcFollowsTheTable : Prop :=
  ∀ (i : Instr) (s t : State), s.fault = none → exec i s = .next t →
    t.pc = if t.fault = none then pcAfter i s else s.input.fetchPc

/-- 60_exceptions.md R238 (the spec's decision D21): an instruction raises at most its own cause; 26 of the 34 raise none. -/
def Obligations.EachInstructionHasOneCause : Prop :=
  ∀ (i : Instr) (s t : State) (r : FaultRecord), s.fault = none → exec i s = .next t → t.fault = some r →
    ownCause i = some r.cause

/-- 60_exceptions.md R236, R237, R241 (the spec's decisions D3, D20): an instruction that faults has no effect but `pc` put back and
the latch set with its own address and word. -/
def Obligations.InstructionFaultsArePrecise : Prop :=
  ∀ (i : Instr) (s t : State) (r : FaultRecord), s.fault = none → exec i s = .next t → t.fault = some r →
    r.faultPc = s.input.fetchPc ∧ r.faultWord = s.input.fetchWord ∧ t = { s with pc := s.input.fetchPc, fault := some r }

/-- 40_fetch_decode_cycle.md R104, 60_exceptions.md R236, R237 (the spec's decisions D3, D20): whatever faults in an `Exec` event,
fetch, decode or body, the state afterwards is the state before it with only the latch set, and the record names the address and
the word (0 if the fetch itself faulted). -/
def Obligations.ExecEventFaultsArePrecise : Prop :=
  ∀ (s t : State) (keys : BitVec 16) (rnd : Byte) (r : FaultRecord),
    s.live → s.nextEvent = .exec keys rnd → step s = .next t → t.fault = some r →
    t.mem = s.mem ∧ t.v = s.v ∧ t.i = s.i ∧ t.pc = s.pc ∧ t.stack = s.stack ∧ t.dt = s.dt ∧ t.st = s.st ∧ t.grid = s.grid ∧
    r.faultPc = s.pc ∧
    (if s.pc.toNat ≤ 0x0FFE then r.faultWord = s.mem.byteAt s.pc.toNat ++ s.mem.byteAt (s.pc.toNat + 1) else r.faultWord = 0)

/-- 40_fetch_decode_cycle.md R106, 60_exceptions.md R245: `rnd` is consumed only by `Cxnn` and `keys` only by `Ex9E`, `ExA1` and
`Fx0A`; every other instruction gives the same result whatever they are. -/
def Obligations.InputsReachOnlyTheirInstructions : Prop :=
  ∀ (i : Instr) (s : State),
    ((∀ x nn, i ≠ .rnd x nn) → ∀ rnd : Byte, ∃ t, exec i s = .next t ∧
      exec i { s with input := { s.input with rnd := rnd } } = .next { t with input := { t.input with rnd := rnd } }) ∧
    ((∀ x, i ≠ .skp x ∧ i ≠ .sknp x ∧ i ≠ .ldVxK x) → ∀ keys : BitVec 16, ∃ t, exec i s = .next t ∧
      exec i { s with input := { s.input with keys := keys } } = .next { t with input := { t.input with keys := keys } })

/-- 10_state.md R31, R33: no instruction reads `ST`, and only `Dxyn` observes the grid (`00E0` overwrites it). -/
def Obligations.SoundTimerAndGridAreNotRead : Prop :=
  ∀ (i : Instr) (s : State),
    ((∀ x, i ≠ .ldStVx x) → ∀ b : Byte, ∃ t, exec i s = .next t ∧ exec i { s with st := b } = .next { t with st := b }) ∧
    (∀ x (b : Byte), exec (.ldStVx x) { s with st := b } = exec (.ldStVx x) s) ∧
    ((∀ x y n, i ≠ .drw x y n ∧ i ≠ .cls) → ∀ g : Grid, ∃ t, exec i s = .next t ∧
      exec i { s with grid := g } = .next { t with grid := g })

/-- The invariant of the machine (Safety.lean: R25, R29, R36, R50, R120, R237, and the model's canonical form of memory) holds
after reset. -/
def Obligations.InvariantHoldsAtReset : Prop :=
  State.reset.Inv

/-- Every step, from every state that meets the invariant and for every event, keeps it. -/
def Obligations.EveryStepKeepsTheInvariant : Prop :=
  ∀ s t : State, s.Inv → step s = .next t → t.Inv
end

