-- ==== Sys2Proof/Laws/Grid.lean ====
section
/-! SUPPORT. Laws of the pixel grid (10_state.md R33, R34). -/

namespace Sys2Proof.Machine

/-- A pixel outside the grid reads as clear. -/
theorem grid_get_outside (g : Grid) (r c : Nat) (h : ¬ (r < 32 ∧ c < 64)) : Grid.get g r c = false := by
  rw [Grid.get, dif_neg h]

/-- "Clearing the pixel grid then querying any pixel returns false" (R34). -/
@[simp] theorem grid_get_clear (r c : Nat) : Grid.get Grid.clear r c = false := by
  rw [Grid.get]
  split <;> simp [Grid.clear]

/-- `get` after `set` (R34): the pixel set, and every other pixel as before. -/
theorem grid_get_set (g : Grid) (r c : Nat) (b : Bool) (hr : r < 32) (hc : c < 64) (r' c' : Nat) :
    Grid.get (Grid.set g r c b) r' c' = if r' = r ∧ c' = c then b else Grid.get g r' c' := by
  by_cases h : r' < 32 ∧ c' < 64
  · rw [Grid.get, Grid.get, dif_pos h, dif_pos h, Grid.set, dif_pos ⟨hr, hc⟩]
    by_cases e1 : r = r'
    · subst e1
      by_cases e2 : c = c'
      · subst e2; simp
      · simp [e2, Ne.symm e2]
    · simp [e1, Ne.symm e1]
  · rw [grid_get_outside _ _ _ h, grid_get_outside _ _ _ h, if_neg (by omega)]

/-- A `set` outside the grid changes nothing. -/
theorem grid_set_outside (g : Grid) (r c : Nat) (b : Bool) (h : ¬ (r < 32 ∧ c < 64)) : Grid.set g r c b = g := by
  rw [Grid.set, dif_neg h]

/-- Two grids that agree on every pixel are equal. -/
theorem grid_ext (g g' : Grid) (h : ∀ r c, r < 32 → c < 64 → Grid.get g r c = Grid.get g' r c) : g = g' := by
  apply Vector.ext
  intro r hr
  apply Vector.ext
  intro c hc
  have e := h r c hr hc
  rwa [Grid.get, Grid.get, dif_pos ⟨hr, hc⟩, dif_pos ⟨hr, hc⟩] at e

/-- A set sprite bit inside the grid flips its pixel and leaves the others (R194). -/
theorem plotPixel_get (cv : Canvas) (r c : Nat) (hr : r < 32) (hc : c < 64) (r' c' : Nat) :
    Grid.get (plotPixel cv r c).grid r' c' =
      if r' = r ∧ c' = c then !(Grid.get cv.grid r c) else Grid.get cv.grid r' c' := by
  rw [plotPixel]
  split
  · rename_i h; rw [grid_get_set _ _ _ _ hr hc, h]; rfl
  · rename_i h; rw [grid_get_set _ _ _ _ hr hc, Bool.eq_false_iff.2 h]; rfl

/-- A set sprite bit records a collision exactly when its pixel was lit (R194). -/
theorem plotPixel_hit (cv : Canvas) (r c : Nat) : (plotPixel cv r c).hit = (cv.hit || Grid.get cv.grid r c) := by
  rw [plotPixel]
  split <;> simp_all

end Sys2Proof.Machine
end

