-- ==== Sys2Proof/Laws/Memory.lean ====
section
/-! SUPPORT. Laws of memory (20_memory.md R50 to R65): read after write, the canonical form, and what a checked access answers. -/

namespace Sys2Proof.Machine

/-- A memory whose listed addresses all lie above `a` reads its reset content at `a`. -/
theorem byteAt_of_all_above (m : Memory) (a : Nat) (h : m.all (fun c => decide (a < c.1)) = true) :
    Memory.byteAt m a = resetByte a := by
  induction m with
  | nil => rfl
  | cons c rest ih =>
    obtain ⟨k, d⟩ := c
    simp only [List.all_cons, Bool.and_eq_true, decide_eq_true_eq] at h
    rw [Memory.byteAt, if_neg (by omega), ih h.2]

/-- The four facts that `wf` says of a nonempty memory. -/
theorem wf_cons (c : Host.Cell) (rest : Memory) :
    Memory.wf (c :: rest) = true ↔
      c.1 < Config.memSize ∧ c.2 ≠ resetByte c.1 ∧ (rest.all fun q => decide (c.1 < q.1)) = true ∧ Memory.wf rest = true := by
  obtain ⟨k, d⟩ := c
  simp [Memory.wf, and_assoc]

/-- Storing a byte keeps every listed address above a bound, if its own address is above it. -/
theorem all_above_setByte (m : Memory) (k a : Nat) (b : Byte) (h : m.all (fun c => decide (k < c.1)) = true) (ha : k < a) :
    (Memory.setByte m a b).all (fun c => decide (k < c.1)) = true := by
  induction m with
  | nil =>
    rw [Memory.setByte]
    split <;> simp [ha]
  | cons c rest ih =>
    obtain ⟨p, d⟩ := c
    rw [List.all_cons, Bool.and_eq_true, decide_eq_true_eq] at h
    have hp : decide (k < p) = true := decide_eq_true h.1
    have ha' : decide (k < a) = true := decide_eq_true ha
    rw [Memory.setByte]
    split
    · split
      · rw [List.all_cons, hp, h.2]; rfl
      · rw [List.all_cons, List.all_cons, ha', hp, h.2]; rfl
    · split
      · split
        · exact h.2
        · rw [List.all_cons, ha', h.2]; rfl
      · rw [List.all_cons, hp, ih h.2]; rfl

/-- A read after a write (R56, R61): the byte written at its address, and every other byte as before. -/
theorem byteAt_setByte (m : Memory) (h : Memory.wf m = true) (a : Nat) (b : Byte) (q : Nat) :
    Memory.byteAt (Memory.setByte m a b) q = if q = a then b else Memory.byteAt m q := by
  induction m with
  | nil =>
    rw [Memory.setByte]
    by_cases hq : q = a
    · subst hq
      rw [if_pos rfl]
      split
      · rename_i hb; rw [hb]; rfl
      · rw [Memory.byteAt, if_pos rfl]
    · rw [if_neg hq]
      split
      · rfl
      · exact if_neg (Ne.symm hq)
  | cons c rest ih =>
    obtain ⟨p, d⟩ := c
    obtain ⟨-, -, above, wfRest⟩ := (wf_cons (p, d) rest).1 h
    have tail := ih wfRest
    rw [Memory.setByte]
    split
    · rename_i hlt
      have low : Memory.byteAt ((p, d) :: rest) a = resetByte a := by
        apply byteAt_of_all_above
        simp only [List.all_cons, Bool.and_eq_true, decide_eq_true_eq, List.all_eq_true]
        refine ⟨hlt, fun x hx => ?_⟩
        have := List.all_eq_true.1 above x hx
        simp only [decide_eq_true_eq] at this
        omega
      split
      · rename_i hb
        by_cases hq : q = a
        · subst hq; rw [if_pos rfl, low, hb]
        · rw [if_neg hq]
      · by_cases hq : q = a
        · subst hq; rw [if_pos rfl, Memory.byteAt, if_pos rfl]
        · rw [Memory.byteAt, if_neg (Ne.symm hq), if_neg hq]
    · split
      · rename_i hne heq
        subst heq
        split
        · rename_i hb
          by_cases hq : q = a
          · subst hq; rw [if_pos rfl, byteAt_of_all_above rest q above, hb]
          · rw [if_neg hq, Memory.byteAt, if_neg (Ne.symm hq)]
        · by_cases hq : q = a
          · subst hq; rw [if_pos rfl, Memory.byteAt, if_pos rfl]
          · rw [Memory.byteAt, if_neg (Ne.symm hq), if_neg hq, Memory.byteAt, if_neg (Ne.symm hq)]
      · rename_i hlt hne
        rw [Memory.byteAt, Memory.byteAt, tail]
        by_cases hp : p = q
        · subst hp
          rw [if_pos rfl, if_neg (Ne.symm hne), if_pos rfl]
        · rw [if_neg hp, if_neg hp]

/-- Storing a byte at a valid address keeps the canonical form. -/
theorem wf_setByte (m : Memory) (h : Memory.wf m = true) (a : Nat) (ha : a < Config.memSize) (b : Byte) :
    Memory.wf (Memory.setByte m a b) = true := by
  induction m with
  | nil =>
    rw [Memory.setByte]
    split
    · rfl
    · rename_i hb
      exact (wf_cons (a, b) []).2 ⟨ha, hb, rfl, rfl⟩
  | cons c rest ih =>
    obtain ⟨p, d⟩ := c
    have whole := h
    obtain ⟨hp, hd, above, wfRest⟩ := (wf_cons (p, d) rest).1 h
    rw [Memory.setByte]
    split
    · rename_i hlt
      split
      · exact whole
      · rename_i hb
        refine (wf_cons (a, b) _).2 ⟨ha, hb, ?_, whole⟩
        simp only [List.all_cons, Bool.and_eq_true, decide_eq_true_eq, List.all_eq_true]
        refine ⟨hlt, fun x hx => ?_⟩
        have := List.all_eq_true.1 above x hx
        simp only [decide_eq_true_eq] at this
        omega
    · split
      · rename_i heq
        subst heq
        split
        · exact wfRest
        · rename_i hb
          exact (wf_cons (a, b) rest).2 ⟨ha, hb, above, wfRest⟩
      · rename_i hlt hne
        exact (wf_cons (p, d) _).2 ⟨hp, hd, all_above_setByte rest p a b above (by omega), ih wfRest⟩

/-- Storing bytes at valid addresses keeps the canonical form. -/
theorem wf_setBytes (bs : List Byte) (m : Memory) (h : Memory.wf m = true) (base : Nat)
    (hb : base + bs.length ≤ Config.memSize) : Memory.wf (Memory.setBytes m base bs) = true := by
  induction bs generalizing m base with
  | nil => exact h
  | cons b bs ih =>
    rw [List.length_cons] at hb
    exact ih _ (wf_setByte m h base (by omega) b) _ (by omega)

/-- A read after a store of bytes: the bytes stored at their addresses, and every other byte as before. -/
theorem byteAt_setBytes (bs : List Byte) (m : Memory) (h : Memory.wf m = true) (base : Nat)
    (hb : base + bs.length ≤ Config.memSize) (q : Nat) :
    Memory.byteAt (Memory.setBytes m base bs) q =
      if base ≤ q ∧ q < base + bs.length then bs.getD (q - base) 0 else Memory.byteAt m q := by
  induction bs generalizing m base with
  | nil =>
    rw [Memory.setBytes, if_neg (by simp only [List.length_nil]; omega)]
  | cons b bs ih =>
    rw [List.length_cons] at hb
    rw [Memory.setBytes, ih _ (wf_setByte m h base (by omega) b) _ (by omega), byteAt_setByte m h]
    simp only [List.length_cons]
    by_cases h1 : base + 1 ≤ q ∧ q < base + 1 + bs.length
    · have e : q - base = (q - (base + 1)) + 1 := by omega
      rw [if_pos h1, if_pos (by omega), e, List.getD_cons_succ]
    · rw [if_neg h1]
      by_cases h2 : q = base
      · rw [if_pos h2, if_pos (by omega), h2, Nat.sub_self, List.getD_cons_zero]
      · rw [if_neg h2, if_neg (by omega)]

/-- An access is in range exactly when it is empty or ends at or below 4096 (R60). -/
theorem firstOutOfRange_eq_none (base n : Nat) : firstOutOfRange base n = none ↔ n = 0 ∨ base + n ≤ Config.memSize := by
  rw [firstOutOfRange]
  split <;> simp_all

/-- The address reported is the lowest one at or above 4096 that the access touches (R52). -/
theorem firstOutOfRange_eq_some (base n a : Nat) (h : firstOutOfRange base n = some a) :
    a = max base Config.memSize ∧ base ≤ a ∧ a < base + n ∧ Config.memSize ≤ a := by
  rw [firstOutOfRange] at h
  split at h
  · exact absurd h (by simp)
  · rename_i hn
    simp only [Option.some.injEq] at h
    omega

/-- `MemRead` in range answers the bytes (R52). -/
theorem readBytes_ok (m : Memory) (base n : Nat) (h : n = 0 ∨ base + n ≤ Config.memSize) :
    m.readBytes base n = .ok (m.bytesFrom base n) := by
  rw [Memory.readBytes, (firstOutOfRange_eq_none base n).2 h]

/-- `MemRead` out of range reports the lowest address that is (R52). -/
theorem readBytes_error (m : Memory) (base n : Nat) (h : ¬ (n = 0 ∨ base + n ≤ Config.memSize)) :
    m.readBytes base n = .error (max base Config.memSize) := by
  rw [Memory.readBytes, firstOutOfRange, if_neg h]

/-- `MemWrite` in range stores the bytes (R53). -/
theorem writeBytes_ok (m : Memory) (base : Nat) (bs : List Byte) (h : bs.length = 0 ∨ base + bs.length ≤ Config.memSize) :
    m.writeBytes base bs = .ok (m.setBytes base bs) := by
  rw [Memory.writeBytes, (firstOutOfRange_eq_none base bs.length).2 h]

/-- `MemWrite` out of range stores nothing and reports the lowest address that is (R53, R241). -/
theorem writeBytes_error (m : Memory) (base : Nat) (bs : List Byte)
    (h : ¬ (bs.length = 0 ∨ base + bs.length ≤ Config.memSize)) :
    m.writeBytes base bs = .error (max base Config.memSize) := by
  rw [Memory.writeBytes, firstOutOfRange, if_neg h]

/-- `MemWrite` keeps the canonical form. -/
theorem wf_writeBytes (m m' : Memory) (h : Memory.wf m = true) (base : Nat) (bs : List Byte)
    (hw : m.writeBytes base bs = .ok m') : Memory.wf m' = true := by
  by_cases hr : bs.length = 0 ∨ base + bs.length ≤ Config.memSize
  · rw [writeBytes_ok m base bs hr] at hw
    cases hw
    rcases hr with h0 | h0
    · rw [List.length_eq_zero_iff.1 h0]; exact h
    · exact wf_setBytes bs m h base h0
  · rw [writeBytes_error m base bs hr] at hw
    cases hw

@[simp] theorem bytesFrom_length (m : Memory) (base n : Nat) : (m.bytesFrom base n).length = n := by
  simp [Memory.bytesFrom]

/-- The bytes of a read, one by one. -/
theorem bytesFrom_getD (m : Memory) (base n k : Nat) (h : k < n) : (m.bytesFrom base n).getD k 0 = m.byteAt (base + k) := by
  simp [Memory.bytesFrom, List.getD_eq_getElem?_getD, h]

/-- The memory of the reset state is in canonical form. -/
theorem wf_reset : Memory.wf State.reset.mem = true := rfl

end Sys2Proof.Machine
end

