-- ==== Sys2Proof/Laws/State.lean ====
section
/-! SUPPORT. One lemma per field per update of the state, true by unfolding, so that no proof unfolds a record update. -/

namespace Sys2Proof.Machine.State

variable (s : State)

/-! ### setReg -/

@[simp] theorem setReg_mem (x : RegIx) (b : Byte) : (s.setReg x b).mem = s.mem := rfl
@[simp] theorem setReg_v (x : RegIx) (b : Byte) : (s.setReg x b).v = s.v.set x.val b := rfl
@[simp] theorem setReg_i (x : RegIx) (b : Byte) : (s.setReg x b).i = s.i := rfl
@[simp] theorem setReg_pc (x : RegIx) (b : Byte) : (s.setReg x b).pc = s.pc := rfl
@[simp] theorem setReg_stack (x : RegIx) (b : Byte) : (s.setReg x b).stack = s.stack := rfl
@[simp] theorem setReg_dt (x : RegIx) (b : Byte) : (s.setReg x b).dt = s.dt := rfl
@[simp] theorem setReg_st (x : RegIx) (b : Byte) : (s.setReg x b).st = s.st := rfl
@[simp] theorem setReg_grid (x : RegIx) (b : Byte) : (s.setReg x b).grid = s.grid := rfl
@[simp] theorem setReg_fault (x : RegIx) (b : Byte) : (s.setReg x b).fault = s.fault := rfl
@[simp] theorem setReg_stackDepth (x : RegIx) (b : Byte) : (s.setReg x b).stackDepth = s.stackDepth := rfl
@[simp] theorem setReg_phase (x : RegIx) (b : Byte) : (s.setReg x b).phase = s.phase := rfl
@[simp] theorem setReg_input (x : RegIx) (b : Byte) : (s.setReg x b).input = s.input := rfl
@[simp] theorem setReg_env (x : RegIx) (b : Byte) : (s.setReg x b).env = s.env := rfl

/-! ### setFlag -/

@[simp] theorem setFlag_mem (f : Bool) : (s.setFlag f).mem = s.mem := rfl
@[simp] theorem setFlag_v (f : Bool) : (s.setFlag f).v = s.v.set vf.val (flagByte f) := rfl
@[simp] theorem setFlag_i (f : Bool) : (s.setFlag f).i = s.i := rfl
@[simp] theorem setFlag_pc (f : Bool) : (s.setFlag f).pc = s.pc := rfl
@[simp] theorem setFlag_stack (f : Bool) : (s.setFlag f).stack = s.stack := rfl
@[simp] theorem setFlag_dt (f : Bool) : (s.setFlag f).dt = s.dt := rfl
@[simp] theorem setFlag_st (f : Bool) : (s.setFlag f).st = s.st := rfl
@[simp] theorem setFlag_grid (f : Bool) : (s.setFlag f).grid = s.grid := rfl
@[simp] theorem setFlag_fault (f : Bool) : (s.setFlag f).fault = s.fault := rfl
@[simp] theorem setFlag_stackDepth (f : Bool) : (s.setFlag f).stackDepth = s.stackDepth := rfl
@[simp] theorem setFlag_phase (f : Bool) : (s.setFlag f).phase = s.phase := rfl
@[simp] theorem setFlag_input (f : Bool) : (s.setFlag f).input = s.input := rfl
@[simp] theorem setFlag_env (f : Bool) : (s.setFlag f).env = s.env := rfl

/-! ### setRegs -/

@[simp] theorem setRegs_mem (bs : List Byte) : (s.setRegs bs).mem = s.mem := rfl
@[simp] theorem setRegs_v (bs : List Byte) : (s.setRegs bs).v = loadRegsFrom s.v 0 bs := rfl
@[simp] theorem setRegs_i (bs : List Byte) : (s.setRegs bs).i = s.i := rfl
@[simp] theorem setRegs_pc (bs : List Byte) : (s.setRegs bs).pc = s.pc := rfl
@[simp] theorem setRegs_stack (bs : List Byte) : (s.setRegs bs).stack = s.stack := rfl
@[simp] theorem setRegs_dt (bs : List Byte) : (s.setRegs bs).dt = s.dt := rfl
@[simp] theorem setRegs_st (bs : List Byte) : (s.setRegs bs).st = s.st := rfl
@[simp] theorem setRegs_grid (bs : List Byte) : (s.setRegs bs).grid = s.grid := rfl
@[simp] theorem setRegs_fault (bs : List Byte) : (s.setRegs bs).fault = s.fault := rfl
@[simp] theorem setRegs_stackDepth (bs : List Byte) : (s.setRegs bs).stackDepth = s.stackDepth := rfl
@[simp] theorem setRegs_phase (bs : List Byte) : (s.setRegs bs).phase = s.phase := rfl
@[simp] theorem setRegs_input (bs : List Byte) : (s.setRegs bs).input = s.input := rfl
@[simp] theorem setRegs_env (bs : List Byte) : (s.setRegs bs).env = s.env := rfl

/-! ### setI -/

@[simp] theorem setI_mem (a : Word) : (s.setI a).mem = s.mem := rfl
@[simp] theorem setI_v (a : Word) : (s.setI a).v = s.v := rfl
@[simp] theorem setI_i (a : Word) : (s.setI a).i = a := rfl
@[simp] theorem setI_pc (a : Word) : (s.setI a).pc = s.pc := rfl
@[simp] theorem setI_stack (a : Word) : (s.setI a).stack = s.stack := rfl
@[simp] theorem setI_dt (a : Word) : (s.setI a).dt = s.dt := rfl
@[simp] theorem setI_st (a : Word) : (s.setI a).st = s.st := rfl
@[simp] theorem setI_grid (a : Word) : (s.setI a).grid = s.grid := rfl
@[simp] theorem setI_fault (a : Word) : (s.setI a).fault = s.fault := rfl
@[simp] theorem setI_stackDepth (a : Word) : (s.setI a).stackDepth = s.stackDepth := rfl
@[simp] theorem setI_phase (a : Word) : (s.setI a).phase = s.phase := rfl
@[simp] theorem setI_input (a : Word) : (s.setI a).input = s.input := rfl
@[simp] theorem setI_env (a : Word) : (s.setI a).env = s.env := rfl
@[simp] theorem setI_reg (a : Word) (q : RegIx) : (s.setI a).reg q = s.reg q := rfl

/-! ### setPc -/

@[simp] theorem setPc_mem (a : Word) : (s.setPc a).mem = s.mem := rfl
@[simp] theorem setPc_v (a : Word) : (s.setPc a).v = s.v := rfl
@[simp] theorem setPc_i (a : Word) : (s.setPc a).i = s.i := rfl
@[simp] theorem setPc_pc (a : Word) : (s.setPc a).pc = a := rfl
@[simp] theorem setPc_stack (a : Word) : (s.setPc a).stack = s.stack := rfl
@[simp] theorem setPc_dt (a : Word) : (s.setPc a).dt = s.dt := rfl
@[simp] theorem setPc_st (a : Word) : (s.setPc a).st = s.st := rfl
@[simp] theorem setPc_grid (a : Word) : (s.setPc a).grid = s.grid := rfl
@[simp] theorem setPc_fault (a : Word) : (s.setPc a).fault = s.fault := rfl
@[simp] theorem setPc_stackDepth (a : Word) : (s.setPc a).stackDepth = s.stackDepth := rfl
@[simp] theorem setPc_phase (a : Word) : (s.setPc a).phase = s.phase := rfl
@[simp] theorem setPc_input (a : Word) : (s.setPc a).input = s.input := rfl
@[simp] theorem setPc_env (a : Word) : (s.setPc a).env = s.env := rfl
@[simp] theorem setPc_reg (a : Word) (q : RegIx) : (s.setPc a).reg q = s.reg q := rfl

/-! ### setDt -/

@[simp] theorem setDt_mem (b : Byte) : (s.setDt b).mem = s.mem := rfl
@[simp] theorem setDt_v (b : Byte) : (s.setDt b).v = s.v := rfl
@[simp] theorem setDt_i (b : Byte) : (s.setDt b).i = s.i := rfl
@[simp] theorem setDt_pc (b : Byte) : (s.setDt b).pc = s.pc := rfl
@[simp] theorem setDt_stack (b : Byte) : (s.setDt b).stack = s.stack := rfl
@[simp] theorem setDt_dt (b : Byte) : (s.setDt b).dt = b := rfl
@[simp] theorem setDt_st (b : Byte) : (s.setDt b).st = s.st := rfl
@[simp] theorem setDt_grid (b : Byte) : (s.setDt b).grid = s.grid := rfl
@[simp] theorem setDt_fault (b : Byte) : (s.setDt b).fault = s.fault := rfl
@[simp] theorem setDt_stackDepth (b : Byte) : (s.setDt b).stackDepth = s.stackDepth := rfl
@[simp] theorem setDt_phase (b : Byte) : (s.setDt b).phase = s.phase := rfl
@[simp] theorem setDt_input (b : Byte) : (s.setDt b).input = s.input := rfl
@[simp] theorem setDt_env (b : Byte) : (s.setDt b).env = s.env := rfl
@[simp] theorem setDt_reg (b : Byte) (q : RegIx) : (s.setDt b).reg q = s.reg q := rfl

/-! ### setSt -/

@[simp] theorem setSt_mem (b : Byte) : (s.setSt b).mem = s.mem := rfl
@[simp] theorem setSt_v (b : Byte) : (s.setSt b).v = s.v := rfl
@[simp] theorem setSt_i (b : Byte) : (s.setSt b).i = s.i := rfl
@[simp] theorem setSt_pc (b : Byte) : (s.setSt b).pc = s.pc := rfl
@[simp] theorem setSt_stack (b : Byte) : (s.setSt b).stack = s.stack := rfl
@[simp] theorem setSt_dt (b : Byte) : (s.setSt b).dt = s.dt := rfl
@[simp] theorem setSt_st (b : Byte) : (s.setSt b).st = b := rfl
@[simp] theorem setSt_grid (b : Byte) : (s.setSt b).grid = s.grid := rfl
@[simp] theorem setSt_fault (b : Byte) : (s.setSt b).fault = s.fault := rfl
@[simp] theorem setSt_stackDepth (b : Byte) : (s.setSt b).stackDepth = s.stackDepth := rfl
@[simp] theorem setSt_phase (b : Byte) : (s.setSt b).phase = s.phase := rfl
@[simp] theorem setSt_input (b : Byte) : (s.setSt b).input = s.input := rfl
@[simp] theorem setSt_env (b : Byte) : (s.setSt b).env = s.env := rfl
@[simp] theorem setSt_reg (b : Byte) (q : RegIx) : (s.setSt b).reg q = s.reg q := rfl

/-! ### setMem -/

@[simp] theorem setMem_mem (m : Memory) : (s.setMem m).mem = m := rfl
@[simp] theorem setMem_v (m : Memory) : (s.setMem m).v = s.v := rfl
@[simp] theorem setMem_i (m : Memory) : (s.setMem m).i = s.i := rfl
@[simp] theorem setMem_pc (m : Memory) : (s.setMem m).pc = s.pc := rfl
@[simp] theorem setMem_stack (m : Memory) : (s.setMem m).stack = s.stack := rfl
@[simp] theorem setMem_dt (m : Memory) : (s.setMem m).dt = s.dt := rfl
@[simp] theorem setMem_st (m : Memory) : (s.setMem m).st = s.st := rfl
@[simp] theorem setMem_grid (m : Memory) : (s.setMem m).grid = s.grid := rfl
@[simp] theorem setMem_fault (m : Memory) : (s.setMem m).fault = s.fault := rfl
@[simp] theorem setMem_stackDepth (m : Memory) : (s.setMem m).stackDepth = s.stackDepth := rfl
@[simp] theorem setMem_phase (m : Memory) : (s.setMem m).phase = s.phase := rfl
@[simp] theorem setMem_input (m : Memory) : (s.setMem m).input = s.input := rfl
@[simp] theorem setMem_env (m : Memory) : (s.setMem m).env = s.env := rfl
@[simp] theorem setMem_reg (m : Memory) (q : RegIx) : (s.setMem m).reg q = s.reg q := rfl

/-! ### setGrid -/

@[simp] theorem setGrid_mem (g : Grid) : (s.setGrid g).mem = s.mem := rfl
@[simp] theorem setGrid_v (g : Grid) : (s.setGrid g).v = s.v := rfl
@[simp] theorem setGrid_i (g : Grid) : (s.setGrid g).i = s.i := rfl
@[simp] theorem setGrid_pc (g : Grid) : (s.setGrid g).pc = s.pc := rfl
@[simp] theorem setGrid_stack (g : Grid) : (s.setGrid g).stack = s.stack := rfl
@[simp] theorem setGrid_dt (g : Grid) : (s.setGrid g).dt = s.dt := rfl
@[simp] theorem setGrid_st (g : Grid) : (s.setGrid g).st = s.st := rfl
@[simp] theorem setGrid_grid (g : Grid) : (s.setGrid g).grid = g := rfl
@[simp] theorem setGrid_fault (g : Grid) : (s.setGrid g).fault = s.fault := rfl
@[simp] theorem setGrid_stackDepth (g : Grid) : (s.setGrid g).stackDepth = s.stackDepth := rfl
@[simp] theorem setGrid_phase (g : Grid) : (s.setGrid g).phase = s.phase := rfl
@[simp] theorem setGrid_input (g : Grid) : (s.setGrid g).input = s.input := rfl
@[simp] theorem setGrid_env (g : Grid) : (s.setGrid g).env = s.env := rfl
@[simp] theorem setGrid_reg (g : Grid) (q : RegIx) : (s.setGrid g).reg q = s.reg q := rfl

/-! ### push -/

@[simp] theorem push_mem (a : Word) : (s.push a).mem = s.mem := rfl
@[simp] theorem push_v (a : Word) : (s.push a).v = s.v := rfl
@[simp] theorem push_i (a : Word) : (s.push a).i = s.i := rfl
@[simp] theorem push_pc (a : Word) : (s.push a).pc = s.pc := rfl
@[simp] theorem push_stack (a : Word) : (s.push a).stack = s.stack ++ [a] := rfl
@[simp] theorem push_dt (a : Word) : (s.push a).dt = s.dt := rfl
@[simp] theorem push_st (a : Word) : (s.push a).st = s.st := rfl
@[simp] theorem push_grid (a : Word) : (s.push a).grid = s.grid := rfl
@[simp] theorem push_fault (a : Word) : (s.push a).fault = s.fault := rfl
@[simp] theorem push_stackDepth (a : Word) : (s.push a).stackDepth = s.stackDepth := rfl
@[simp] theorem push_phase (a : Word) : (s.push a).phase = s.phase := rfl
@[simp] theorem push_input (a : Word) : (s.push a).input = s.input := rfl
@[simp] theorem push_env (a : Word) : (s.push a).env = s.env := rfl
@[simp] theorem push_reg (a : Word) (q : RegIx) : (s.push a).reg q = s.reg q := rfl

/-! ### dropTop -/

@[simp] theorem dropTop_mem : (s.dropTop).mem = s.mem := rfl
@[simp] theorem dropTop_v : (s.dropTop).v = s.v := rfl
@[simp] theorem dropTop_i : (s.dropTop).i = s.i := rfl
@[simp] theorem dropTop_pc : (s.dropTop).pc = s.pc := rfl
@[simp] theorem dropTop_stack : (s.dropTop).stack = s.stack.dropLast := rfl
@[simp] theorem dropTop_dt : (s.dropTop).dt = s.dt := rfl
@[simp] theorem dropTop_st : (s.dropTop).st = s.st := rfl
@[simp] theorem dropTop_grid : (s.dropTop).grid = s.grid := rfl
@[simp] theorem dropTop_fault : (s.dropTop).fault = s.fault := rfl
@[simp] theorem dropTop_stackDepth : (s.dropTop).stackDepth = s.stackDepth := rfl
@[simp] theorem dropTop_phase : (s.dropTop).phase = s.phase := rfl
@[simp] theorem dropTop_input : (s.dropTop).input = s.input := rfl
@[simp] theorem dropTop_env : (s.dropTop).env = s.env := rfl
@[simp] theorem dropTop_reg (q : RegIx) : (s.dropTop).reg q = s.reg q := rfl

/-! ### raise -/

@[simp] theorem raise_mem (c : FaultCause) (n : Nat) : (s.raise c n).mem = s.mem := rfl
@[simp] theorem raise_v (c : FaultCause) (n : Nat) : (s.raise c n).v = s.v := rfl
@[simp] theorem raise_i (c : FaultCause) (n : Nat) : (s.raise c n).i = s.i := rfl
@[simp] theorem raise_pc (c : FaultCause) (n : Nat) : (s.raise c n).pc = s.input.fetchPc := rfl
@[simp] theorem raise_stack (c : FaultCause) (n : Nat) : (s.raise c n).stack = s.stack := rfl
@[simp] theorem raise_dt (c : FaultCause) (n : Nat) : (s.raise c n).dt = s.dt := rfl
@[simp] theorem raise_st (c : FaultCause) (n : Nat) : (s.raise c n).st = s.st := rfl
@[simp] theorem raise_grid (c : FaultCause) (n : Nat) : (s.raise c n).grid = s.grid := rfl
@[simp] theorem raise_fault (c : FaultCause) (n : Nat) : (s.raise c n).fault = some ⟨c, s.input.fetchPc, s.input.fetchWord, BitVec.ofNat 16 n⟩ := rfl
@[simp] theorem raise_stackDepth (c : FaultCause) (n : Nat) : (s.raise c n).stackDepth = s.stackDepth := rfl
@[simp] theorem raise_phase (c : FaultCause) (n : Nat) : (s.raise c n).phase = s.phase := rfl
@[simp] theorem raise_input (c : FaultCause) (n : Nat) : (s.raise c n).input = s.input := rfl
@[simp] theorem raise_env (c : FaultCause) (n : Nat) : (s.raise c n).env = s.env := rfl
@[simp] theorem raise_reg (c : FaultCause) (n : Nat) (q : RegIx) : (s.raise c n).reg q = s.reg q := rfl

/-! ### takeEvent -/

@[simp] theorem takeEvent_mem : (s.takeEvent).mem = s.mem := rfl
@[simp] theorem takeEvent_v : (s.takeEvent).v = s.v := rfl
@[simp] theorem takeEvent_i : (s.takeEvent).i = s.i := rfl
@[simp] theorem takeEvent_pc : (s.takeEvent).pc = s.pc := rfl
@[simp] theorem takeEvent_stack : (s.takeEvent).stack = s.stack := rfl
@[simp] theorem takeEvent_dt : (s.takeEvent).dt = s.dt := rfl
@[simp] theorem takeEvent_st : (s.takeEvent).st = s.st := rfl
@[simp] theorem takeEvent_grid : (s.takeEvent).grid = s.grid := rfl
@[simp] theorem takeEvent_fault : (s.takeEvent).fault = s.fault := rfl
@[simp] theorem takeEvent_stackDepth : (s.takeEvent).stackDepth = s.stackDepth := rfl
@[simp] theorem takeEvent_phase : (s.takeEvent).phase = s.phase := rfl
@[simp] theorem takeEvent_input : (s.takeEvent).input = s.input := rfl
@[simp] theorem takeEvent_env : (s.takeEvent).env = Env.afterTaking s.env := rfl
@[simp] theorem takeEvent_reg (q : RegIx) : (s.takeEvent).reg q = s.reg q := rfl

/-! ### leaveReset -/

@[simp] theorem leaveReset_mem : (s.leaveReset).mem = s.mem := rfl
@[simp] theorem leaveReset_v : (s.leaveReset).v = s.v := rfl
@[simp] theorem leaveReset_i : (s.leaveReset).i = s.i := rfl
@[simp] theorem leaveReset_pc : (s.leaveReset).pc = s.pc := rfl
@[simp] theorem leaveReset_stack : (s.leaveReset).stack = s.stack := rfl
@[simp] theorem leaveReset_dt : (s.leaveReset).dt = s.dt := rfl
@[simp] theorem leaveReset_st : (s.leaveReset).st = s.st := rfl
@[simp] theorem leaveReset_grid : (s.leaveReset).grid = s.grid := rfl
@[simp] theorem leaveReset_fault : (s.leaveReset).fault = s.fault := rfl
@[simp] theorem leaveReset_stackDepth : (s.leaveReset).stackDepth = s.stackDepth := rfl
@[simp] theorem leaveReset_phase : (s.leaveReset).phase = .running := rfl
@[simp] theorem leaveReset_input : (s.leaveReset).input = s.input := rfl
@[simp] theorem leaveReset_env : (s.leaveReset).env = s.env := rfl
@[simp] theorem leaveReset_reg (q : RegIx) : (s.leaveReset).reg q = s.reg q := rfl

/-! ### emitTone -/

@[simp] theorem emitTone_mem (b : Bool) : (s.emitTone b).mem = s.mem := rfl
@[simp] theorem emitTone_v (b : Bool) : (s.emitTone b).v = s.v := rfl
@[simp] theorem emitTone_i (b : Bool) : (s.emitTone b).i = s.i := rfl
@[simp] theorem emitTone_pc (b : Bool) : (s.emitTone b).pc = s.pc := rfl
@[simp] theorem emitTone_stack (b : Bool) : (s.emitTone b).stack = s.stack := rfl
@[simp] theorem emitTone_dt (b : Bool) : (s.emitTone b).dt = s.dt := rfl
@[simp] theorem emitTone_st (b : Bool) : (s.emitTone b).st = s.st := rfl
@[simp] theorem emitTone_grid (b : Bool) : (s.emitTone b).grid = s.grid := rfl
@[simp] theorem emitTone_fault (b : Bool) : (s.emitTone b).fault = s.fault := rfl
@[simp] theorem emitTone_stackDepth (b : Bool) : (s.emitTone b).stackDepth = s.stackDepth := rfl
@[simp] theorem emitTone_phase (b : Bool) : (s.emitTone b).phase = s.phase := rfl
@[simp] theorem emitTone_input (b : Bool) : (s.emitTone b).input = s.input := rfl
@[simp] theorem emitTone_env (b : Bool) : (s.emitTone b).env = { s.env with tone := some b } := rfl
@[simp] theorem emitTone_reg (b : Bool) (q : RegIx) : (s.emitTone b).reg q = s.reg q := rfl

/-! ### beginExec -/

@[simp] theorem beginExec_mem (k : BitVec 16) (r : Byte) : (s.beginExec k r).mem = s.mem := rfl
@[simp] theorem beginExec_v (k : BitVec 16) (r : Byte) : (s.beginExec k r).v = s.v := rfl
@[simp] theorem beginExec_i (k : BitVec 16) (r : Byte) : (s.beginExec k r).i = s.i := rfl
@[simp] theorem beginExec_pc (k : BitVec 16) (r : Byte) : (s.beginExec k r).pc = s.pc := rfl
@[simp] theorem beginExec_stack (k : BitVec 16) (r : Byte) : (s.beginExec k r).stack = s.stack := rfl
@[simp] theorem beginExec_dt (k : BitVec 16) (r : Byte) : (s.beginExec k r).dt = s.dt := rfl
@[simp] theorem beginExec_st (k : BitVec 16) (r : Byte) : (s.beginExec k r).st = s.st := rfl
@[simp] theorem beginExec_grid (k : BitVec 16) (r : Byte) : (s.beginExec k r).grid = s.grid := rfl
@[simp] theorem beginExec_fault (k : BitVec 16) (r : Byte) : (s.beginExec k r).fault = s.fault := rfl
@[simp] theorem beginExec_stackDepth (k : BitVec 16) (r : Byte) : (s.beginExec k r).stackDepth = s.stackDepth := rfl
@[simp] theorem beginExec_phase (k : BitVec 16) (r : Byte) : (s.beginExec k r).phase = s.phase := rfl
@[simp] theorem beginExec_input (k : BitVec 16) (r : Byte) : (s.beginExec k r).input = ⟨k, r, s.pc, 0⟩ := rfl
@[simp] theorem beginExec_env (k : BitVec 16) (r : Byte) : (s.beginExec k r).env = s.env := rfl
@[simp] theorem beginExec_reg (k : BitVec 16) (r : Byte) (q : RegIx) : (s.beginExec k r).reg q = s.reg q := rfl

/-! ### afterFetch -/

@[simp] theorem afterFetch_mem (w : Word) : (s.afterFetch w).mem = s.mem := rfl
@[simp] theorem afterFetch_v (w : Word) : (s.afterFetch w).v = s.v := rfl
@[simp] theorem afterFetch_i (w : Word) : (s.afterFetch w).i = s.i := rfl
@[simp] theorem afterFetch_pc (w : Word) : (s.afterFetch w).pc = s.pc + 2 := rfl
@[simp] theorem afterFetch_stack (w : Word) : (s.afterFetch w).stack = s.stack := rfl
@[simp] theorem afterFetch_dt (w : Word) : (s.afterFetch w).dt = s.dt := rfl
@[simp] theorem afterFetch_st (w : Word) : (s.afterFetch w).st = s.st := rfl
@[simp] theorem afterFetch_grid (w : Word) : (s.afterFetch w).grid = s.grid := rfl
@[simp] theorem afterFetch_fault (w : Word) : (s.afterFetch w).fault = s.fault := rfl
@[simp] theorem afterFetch_stackDepth (w : Word) : (s.afterFetch w).stackDepth = s.stackDepth := rfl
@[simp] theorem afterFetch_phase (w : Word) : (s.afterFetch w).phase = s.phase := rfl
@[simp] theorem afterFetch_input (w : Word) : (s.afterFetch w).input = { s.input with fetchWord := w } := rfl
@[simp] theorem afterFetch_env (w : Word) : (s.afterFetch w).env = s.env := rfl
@[simp] theorem afterFetch_reg (w : Word) (q : RegIx) : (s.afterFetch w).reg q = s.reg q := rfl

/-! ### endExec -/

@[simp] theorem endExec_mem : (s.endExec).mem = s.mem := rfl
@[simp] theorem endExec_v : (s.endExec).v = s.v := rfl
@[simp] theorem endExec_i : (s.endExec).i = s.i := rfl
@[simp] theorem endExec_pc : (s.endExec).pc = s.pc := rfl
@[simp] theorem endExec_stack : (s.endExec).stack = s.stack := rfl
@[simp] theorem endExec_dt : (s.endExec).dt = s.dt := rfl
@[simp] theorem endExec_st : (s.endExec).st = s.st := rfl
@[simp] theorem endExec_grid : (s.endExec).grid = s.grid := rfl
@[simp] theorem endExec_fault : (s.endExec).fault = s.fault := rfl
@[simp] theorem endExec_stackDepth : (s.endExec).stackDepth = s.stackDepth := rfl
@[simp] theorem endExec_phase : (s.endExec).phase = s.phase := rfl
@[simp] theorem endExec_input : (s.endExec).input = .idle := rfl
@[simp] theorem endExec_env : (s.endExec).env = s.env := rfl
@[simp] theorem endExec_reg (q : RegIx) : (s.endExec).reg q = s.reg q := rfl

/-! ### skipIf -/

/-- A skip changes `pc` and nothing else (R128). -/
theorem skipIf_eq (c : Bool) : s.skipIf c = { s with pc := if c then s.pc + 2 else s.pc } := by
  cases c <;> rfl

@[simp] theorem skipIf_mem (c : Bool) : (s.skipIf c).mem = s.mem := by rw [skipIf_eq]
@[simp] theorem skipIf_v (c : Bool) : (s.skipIf c).v = s.v := by rw [skipIf_eq]
@[simp] theorem skipIf_i (c : Bool) : (s.skipIf c).i = s.i := by rw [skipIf_eq]
@[simp] theorem skipIf_pc (c : Bool) : (s.skipIf c).pc = if c then s.pc + 2 else s.pc := by rw [skipIf_eq]
@[simp] theorem skipIf_stack (c : Bool) : (s.skipIf c).stack = s.stack := by rw [skipIf_eq]
@[simp] theorem skipIf_dt (c : Bool) : (s.skipIf c).dt = s.dt := by rw [skipIf_eq]
@[simp] theorem skipIf_st (c : Bool) : (s.skipIf c).st = s.st := by rw [skipIf_eq]
@[simp] theorem skipIf_grid (c : Bool) : (s.skipIf c).grid = s.grid := by rw [skipIf_eq]
@[simp] theorem skipIf_fault (c : Bool) : (s.skipIf c).fault = s.fault := by rw [skipIf_eq]
@[simp] theorem skipIf_stackDepth (c : Bool) : (s.skipIf c).stackDepth = s.stackDepth := by rw [skipIf_eq]
@[simp] theorem skipIf_phase (c : Bool) : (s.skipIf c).phase = s.phase := by rw [skipIf_eq]
@[simp] theorem skipIf_input (c : Bool) : (s.skipIf c).input = s.input := by rw [skipIf_eq]
@[simp] theorem skipIf_env (c : Bool) : (s.skipIf c).env = s.env := by rw [skipIf_eq]
@[simp] theorem skipIf_reg (c : Bool) (q : RegIx) : (s.skipIf c).reg q = s.reg q := by rw [skipIf_eq]; rfl

end Sys2Proof.Machine.State
end

