-- ==== Sys2Proof/Laws/Registers.lean ====
section
/-! SUPPORT. Laws of the general registers (10_state.md R20, R22). -/

namespace Sys2Proof.Machine

namespace State

/-- A read after a write of a register. -/
theorem reg_setReg (s : State) (x : RegIx) (b : Byte) (q : RegIx) :
    (s.setReg x b).reg q = if q = x then b else s.reg q := by
  simp only [reg, setReg, Vector.getElem_set, Fin.ext_iff, eq_comm (a := x.val)]

@[simp] theorem reg_setReg_same (s : State) (x : RegIx) (b : Byte) : (s.setReg x b).reg x = b := by
  rw [reg_setReg, if_pos rfl]

theorem reg_setReg_other (s : State) (x q : RegIx) (b : Byte) (h : q ≠ x) : (s.setReg x b).reg q = s.reg q := by
  rw [reg_setReg, if_neg h]

/-- A read after a flag write (R22). -/
theorem reg_setFlag (s : State) (f : Bool) (q : RegIx) :
    (s.setFlag f).reg q = if q = vf then flagByte f else s.reg q := reg_setReg s vf _ q

@[simp] theorem reg_setFlag_vf (s : State) (f : Bool) : (s.setFlag f).reg vf = flagByte f := reg_setReg_same s vf _

theorem reg_setFlag_other (s : State) (f : Bool) (q : RegIx) (h : q ≠ vf) : (s.setFlag f).reg q = s.reg q :=
  reg_setReg_other s vf q _ h

/-- The registers `V[0]` .. `V[x]` are `x + 1` bytes. -/
@[simp] theorem regsUpTo_length (s : State) (x : RegIx) : (s.regsUpTo x).length = x.val + 1 := by
  simp only [regsUpTo, List.length_take, Vector.length_toList]
  omega

/-- The bytes of `regsUpTo` are the registers in order. -/
theorem regsUpTo_getD (s : State) (x q : RegIx) (h : q.val ≤ x.val) : (s.regsUpTo x).getD q.val 0 = s.reg q := by
  have hq : q.val < 16 := q.isLt
  simp [regsUpTo, reg, List.getD_eq_getElem?_getD, show q.val < x.val + 1 by omega]

end State

/-- The registers after a load of bytes from number `k` on (R176). -/
theorem loadRegsFrom_getElem (bs : List Byte) (v : Vector Byte 16) (k q : Nat) (hq : q < 16) :
    (loadRegsFrom v k bs)[q] = if k ≤ q ∧ q < k + bs.length then bs.getD (q - k) 0 else v[q] := by
  induction bs generalizing v k with
  | nil => rw [loadRegsFrom, if_neg (by simp only [List.length_nil]; omega)]
  | cons b bs ih =>
    rw [loadRegsFrom, ih, Vector.getElem_setIfInBounds]
    simp only [List.length_cons]
    by_cases h1 : k + 1 ≤ q ∧ q < k + 1 + bs.length
    · have e : q - k = (q - (k + 1)) + 1 := by omega
      rw [if_pos h1, if_pos (by omega), e, List.getD_cons_succ]
    · rw [if_neg h1]
      by_cases h2 : k = q
      · rw [if_pos h2, if_pos (by omega), h2, Nat.sub_self, List.getD_cons_zero]
      · rw [if_neg h2, if_neg (by omega)]

/-- A read of a register after `V[0]` .. took bytes (R176). -/
theorem State.reg_setRegs (s : State) (bs : List Byte) (q : RegIx) :
    (s.setRegs bs).reg q = if q.val < bs.length then bs.getD q.val 0 else s.reg q := by
  have h := loadRegsFrom_getElem bs s.v 0 q.val q.isLt
  simpa [State.reg, State.setRegs] using h

end Sys2Proof.Machine
end

