-- ==== Sys2Proof/Laws/Ops.lean ====
section
/-! SUPPORT. What the shared operations over the state can do, said once each. -/

namespace Sys2Proof.Machine.State

variable (s : State)

/-- The stack is full exactly when `STACK_DEPTH` is a number that the length has reached (R29). -/
theorem stackFull_iff : s.stackFull = true ↔ ∃ d, s.stackDepth = some d ∧ d ≤ s.stack.length := by
  rw [stackFull]
  cases s.stackDepth <;> simp

/-- A store of bytes: all of them stored when every address is in memory (R53). -/
theorem storeBytes_ok (base : Nat) (bs : List Byte) (h : bs.length = 0 ∨ base + bs.length ≤ Config.memSize) :
    s.storeBytes base bs = s.setMem (s.mem.setBytes base bs) := by
  rw [storeBytes, writeBytes_ok s.mem base bs h]

/-- A store of bytes: `MemoryOutOfRange` and nothing stored otherwise (R53, R241). -/
theorem storeBytes_raise (base : Nat) (bs : List Byte) (h : ¬ (bs.length = 0 ∨ base + bs.length ≤ Config.memSize)) :
    s.storeBytes base bs = s.raise .memoryOutOfRange (max base Config.memSize) := by
  rw [storeBytes, writeBytes_error s.mem base bs h]

/-- A read of bytes: the continuation on them when every address is in memory (R52). -/
theorem withBytes_ok (base n : Nat) (k : List Byte → State) (h : n = 0 ∨ base + n ≤ Config.memSize) :
    s.withBytes base n k = k (s.mem.bytesFrom base n) := by
  rw [withBytes, readBytes_ok s.mem base n h]

/-- A read of bytes: `MemoryOutOfRange` otherwise (R52, R233). -/
theorem withBytes_raise (base n : Nat) (k : List Byte → State) (h : ¬ (n = 0 ∨ base + n ≤ Config.memSize)) :
    s.withBytes base n k = s.raise .memoryOutOfRange (max base Config.memSize) := by
  rw [withBytes, readBytes_error s.mem base n h]

/-- Fetch in range: the byte at `pc` is the high half of the word (R54, R101). -/
theorem fetch_ok (h : s.pc.toNat + 2 ≤ Config.memSize) :
    s.fetch = .ok (s.mem.byteAt s.pc.toNat ++ s.mem.byteAt (s.pc.toNat + 1)) := by
  rw [fetch, readBytes_ok s.mem _ 2 (.inr h)]
  rfl

/-- Fetch out of range (R101). -/
theorem fetch_error (h : ¬ s.pc.toNat + 2 ≤ Config.memSize) : s.fetch = .error (max s.pc.toNat Config.memSize) := by
  rw [fetch, readBytes_error s.mem _ 2 (by omega)]

end Sys2Proof.Machine.State
end

