-- ==== Sys2Proof/Laws/PerInstr.lean ====
section
/-! SUPPORT. The per-instruction family EncodesRow: the encoding of an instruction matches the mask and match of its own row of
the opcode map (30_encoding.md R86). -/

namespace Sys2Proof.Laws

/-- Bit by bit equality of two words, for masks. -/
theorem packNnn_and (op : Nibble) (nnn : Addr12) : packNnn op nnn &&& 0xF000 = packNnn op 0 := by
  apply BitVec.eq_of_getLsbD_eq
  intro k hk
  simp only [packNnn, BitVec.getLsbD_and, BitVec.getLsbD_append]
  interval_cases k <;> simp

theorem packXnn_and (op : Nibble) (x : RegIx) (nn : Byte) : packXnn op x nn &&& 0xF000 = packNnn op 0 :=
  packNnn_and op _

theorem packXyn_and_op (op : Nibble) (x y : RegIx) (n : Nibble) : packXyn op x y n &&& 0xF000 = packNnn op 0 :=
  packNnn_and op _

theorem packXnn_and_full (op : Nibble) (x : RegIx) (nn : Byte) : packXnn op x nn &&& 0xF0FF = packXnn op 0 nn := by
  apply BitVec.eq_of_getLsbD_eq
  intro k hk
  simp only [packXnn, regBits, BitVec.getLsbD_and, BitVec.getLsbD_append]
  interval_cases k <;> simp

theorem packXyn_and (op : Nibble) (x y : RegIx) (n : Nibble) : packXyn op x y n &&& 0xF00F = packXyn op 0 0 n := by
  apply BitVec.eq_of_getLsbD_eq
  intro k hk
  simp only [packXyn, regBits, BitVec.getLsbD_and, BitVec.getLsbD_append]
  interval_cases k <;> simp

namespace EncodesRow

/-- The word of the instruction matches the instruction's own row (R86). -/
def Statement (i : Instr) : Prop := encode i &&& i.row.mask = i.row.bits

theorem cls : Statement (.cls) := rfl
theorem ret : Statement (.ret) := rfl
theorem jp (nnn : Addr12) : Statement (.jp nnn) := (packNnn_and _ nnn).trans rfl
theorem call (nnn : Addr12) : Statement (.call nnn) := (packNnn_and _ nnn).trans rfl
theorem seVxNn (x : RegIx) (nn : Byte) : Statement (.seVxNn x nn) := (packXnn_and _ x nn).trans rfl
theorem sneVxNn (x : RegIx) (nn : Byte) : Statement (.sneVxNn x nn) := (packXnn_and _ x nn).trans rfl
theorem seVxVy (x y : RegIx) : Statement (.seVxVy x y) := (packXyn_and _ x y _).trans rfl
theorem ldVxNn (x : RegIx) (nn : Byte) : Statement (.ldVxNn x nn) := (packXnn_and _ x nn).trans rfl
theorem addVxNn (x : RegIx) (nn : Byte) : Statement (.addVxNn x nn) := (packXnn_and _ x nn).trans rfl
theorem ldVxVy (x y : RegIx) : Statement (.ldVxVy x y) := (packXyn_and _ x y _).trans rfl
theorem or (x y : RegIx) : Statement (.or x y) := (packXyn_and _ x y _).trans rfl
theorem and (x y : RegIx) : Statement (.and x y) := (packXyn_and _ x y _).trans rfl
theorem xor (x y : RegIx) : Statement (.xor x y) := (packXyn_and _ x y _).trans rfl
theorem addVxVy (x y : RegIx) : Statement (.addVxVy x y) := (packXyn_and _ x y _).trans rfl
theorem sub (x y : RegIx) : Statement (.sub x y) := (packXyn_and _ x y _).trans rfl
theorem shr (x y : RegIx) : Statement (.shr x y) := (packXyn_and _ x y _).trans rfl
theorem subn (x y : RegIx) : Statement (.subn x y) := (packXyn_and _ x y _).trans rfl
theorem shl (x y : RegIx) : Statement (.shl x y) := (packXyn_and _ x y _).trans rfl
theorem sneVxVy (x y : RegIx) : Statement (.sneVxVy x y) := (packXyn_and _ x y _).trans rfl
theorem ldINnn (nnn : Addr12) : Statement (.ldINnn nnn) := (packNnn_and _ nnn).trans rfl
theorem jpV0 (nnn : Addr12) : Statement (.jpV0 nnn) := (packNnn_and _ nnn).trans rfl
theorem rnd (x : RegIx) (nn : Byte) : Statement (.rnd x nn) := (packXnn_and _ x nn).trans rfl
theorem drw (x y : RegIx) (n : Nibble) : Statement (.drw x y n) := (packXyn_and_op _ x y n).trans rfl
theorem skp (x : RegIx) : Statement (.skp x) := (packXnn_and_full _ x _).trans rfl
theorem sknp (x : RegIx) : Statement (.sknp x) := (packXnn_and_full _ x _).trans rfl
theorem ldVxDt (x : RegIx) : Statement (.ldVxDt x) := (packXnn_and_full _ x _).trans rfl
theorem ldVxK (x : RegIx) : Statement (.ldVxK x) := (packXnn_and_full _ x _).trans rfl
theorem ldDtVx (x : RegIx) : Statement (.ldDtVx x) := (packXnn_and_full _ x _).trans rfl
theorem ldStVx (x : RegIx) : Statement (.ldStVx x) := (packXnn_and_full _ x _).trans rfl
theorem addIVx (x : RegIx) : Statement (.addIVx x) := (packXnn_and_full _ x _).trans rfl
theorem ldFVx (x : RegIx) : Statement (.ldFVx x) := (packXnn_and_full _ x _).trans rfl
theorem ldBVx (x : RegIx) : Statement (.ldBVx x) := (packXnn_and_full _ x _).trans rfl
theorem ldMiVx (x : RegIx) : Statement (.ldMiVx x) := (packXnn_and_full _ x _).trans rfl
theorem ldVxMi (x : RegIx) : Statement (.ldVxMi x) := (packXnn_and_full _ x _).trans rfl

end EncodesRow

end Sys2Proof.Laws
end

