-- ==== Sys2Proof/Laws/Step.lean ====
section
/-! SUPPORT. What an event does to the state, case by case, so that no proof unfolds the cycle. -/

namespace Sys2Proof.Machine

/-- One step is its event on the state with that event taken. -/
theorem step_eq (s : State) : step s = runEvent s.nextEvent s.takeEvent := rfl

/-- The next event is the first one listed. -/
theorem nextEvent_listed (s : State) (e : Event) (es : List Event) (h : s.env.events = e :: es) : s.nextEvent = e := by
  rw [State.nextEvent, h]

/-- With none listed it is a `Tick` or an `Exec` of free inputs, and nothing says which (R222). -/
theorem nextEvent_unlisted (s : State) (h : s.env.events = []) : s.nextEvent = .tick ∨ s.nextEvent = s.env.freeExec := by
  rw [State.nextEvent, h]
  cases hc : Config.freeTick s.env.draws <;> simp

/-- A placed word finds an `Exec` event listed next. -/
theorem withExecNext_events (e : Env) : ∃ keys rnd es, (Env.withExecNext e).events = .exec keys rnd :: es := by
  rw [Env.withExecNext]
  split
  · rename_i h; exact ⟨_, _, _, h⟩
  · exact ⟨_, _, _, rfl⟩

@[simp] theorem afterTaking_tone (e : Env) : (Env.afterTaking e).tone = none := by
  rw [Env.afterTaking]
  split <;> rfl

/-- A block that is not usable refuses `Exec` (R263). -/
theorem execEvent_unusable (k : BitVec 16) (r : Byte) (s : State) (h : s.phase = .unusable) :
    execEvent k r s = .refused .blockUnusable := by
  rw [execEvent, h]

/-- A halted block does not step (R105). -/
theorem execEvent_halted (k : BitVec 16) (r : Byte) (s : State) (hp : s.phase ≠ .unusable) (hf : s.fault.isSome = true) :
    execEvent k r s = .next s := by
  rw [execEvent]
  split
  · rename_i h; exact absurd h hp
  · rw [if_pos hf]

/-- `Exec` on a block that can step is one cycle between its two ends (R107). -/
theorem execEvent_live (k : BitVec 16) (r : Byte) (s : State) (hp : s.phase ≠ .unusable) (hf : s.fault = none) :
    execEvent k r s = State.endExecOutcome (cycle (s.leaveReset.beginExec k r)) := by
  rw [execEvent]
  split
  · rename_i h; exact absurd h hp
  · rw [hf]; rfl

/-- The cycle when the fetch is out of range (R101). -/
theorem cycle_fetch_error (s : State) (h : ¬ s.pc.toNat + 2 ≤ Config.memSize) :
    cycle s = .next (s.raise .memoryOutOfRange (max s.pc.toNat Config.memSize)) := by
  rw [cycle, State.fetch_error s h]

/-- The cycle when the fetch succeeds (R102, R103). -/
theorem cycle_fetch_ok (s : State) (h : s.pc.toNat + 2 ≤ Config.memSize) :
    cycle s = dispatchWord (s.mem.byteAt s.pc.toNat ++ s.mem.byteAt (s.pc.toNat + 1))
      (s.afterFetch (s.mem.byteAt s.pc.toNat ++ s.mem.byteAt (s.pc.toNat + 1))) := by
  rw [cycle, State.fetch_ok s h]

/-- Dispatch of a legal word is the instruction's body (R103). -/
theorem dispatchWord_ok (w : Word) (i : Instr) (s : State) (h : decode w = .ok i) : dispatchWord w s = exec i s := by
  rw [dispatchWord, h]

/-- Dispatch of an illegal word raises `IllegalInstruction` (R231). -/
theorem dispatchWord_illegal (w : Word) (e : Reject) (s : State) (h : decode w = .error e) :
    dispatchWord w s = .next (s.raise .illegalInstruction 0) := by
  rw [dispatchWord, h]

end Sys2Proof.Machine
end

