-- ==== Sys2Proof/Tests/Slice0.lean ====
section
/-! SUPPORT. The model's own tests. Expected results are the vectors of spec/95_test_vectors.md (named at each test) or the words
and tables of the rules; the witnesses show that the hypotheses of each statement of Certificates/Slice0/Obligations.lean can be
met together, at the edges of their ranges. -/

namespace Sys2Proof.Tests

open Sys2Proof.Machine

/-! ### Helpers -/

/-- The reset state with listed registers set. -/
def withRegs (l : List (RegIx × Byte)) (s : State) : State := l.foldl (fun s p => s.setReg p.1 p.2) s

/-- The reset state with one event to come. -/
def withEvent (e : Event) (s : State) : State := { s with env := ⟨[e], 0, none⟩ }

/-- The state with bytes stored. -/
def withMem (a : Nat) (bs : List Byte) (s : State) : State := s.setMem (s.mem.setBytes a bs)

/-- The next state of an outcome, for tests on an outcome known to be one. -/
def nextOf (o : Host.Outcome State Fault Refusal) : State :=
  match o with
  | .next t => t
  | .fault _ => State.reset
  | .refused _ => State.reset

/-- One step of the machine on one `Exec` event. -/
def execOnce (s : State) (keys : BitVec 16) (rnd : Byte) : State := nextOf (step (withEvent (.exec keys rnd) s))

/-! ### WellFormed: a word of each family that R87 makes illegal is refused (vectors DEC-L) -/

theorem test_illegal_family0 : wordLegal 0x0123 = false := by decide
theorem test_illegal_zero_word : wordLegal 0x0000 = false := by decide
theorem test_illegal_family5 : wordLegal 0x5121 = false := by decide
theorem test_illegal_family8 : wordLegal 0x8AB8 = false := by decide
theorem test_illegal_family9 : wordLegal 0x9AB1 = false := by decide
theorem test_illegal_familyE : wordLegal 0xE19F = false := by decide
theorem test_illegal_familyF : wordLegal 0xF156 = false := by decide
theorem test_legal_words : [0x8AB6, 0x8ABE, 0xD000, 0x5FF0, 0x9000, 0xEF9E, 0xFF65, 0x1000].all wordLegal = true := by decide

/-! ### Decode: words written out from the patterns of R86 -/

theorem test_decode_cls : decodeTableWord 16 0b0000_0000_1110_0000 = some .cls := by decide
theorem test_decode_ret : decodeTableWord 16 0b0000_0000_1110_1110 = some .ret := by decide
theorem test_decode_jp : decodeTableWord 16 0b0001_0010_0011_0100 = some (.jp 0x234) := by decide
theorem test_decode_call : decodeTableWord 16 0b0010_1111_1111_1110 = some (.call 0xFFE) := by decide
theorem test_decode_seVxNn : decodeTableWord 16 0b0011_1010_0100_0010 = some (.seVxNn 0xA 0x42) := by decide
theorem test_decode_sneVxNn : decodeTableWord 16 0b0100_1010_0100_0010 = some (.sneVxNn 0xA 0x42) := by decide
theorem test_decode_seVxVy : decodeTableWord 16 0b0101_0001_0010_0000 = some (.seVxVy 1 2) := by decide
theorem test_decode_ldVxNn : decodeTableWord 16 0b0110_0000_0000_0101 = some (.ldVxNn 0 0x05) := by decide
theorem test_decode_addVxNn : decodeTableWord 16 0b0111_0001_0000_0101 = some (.addVxNn 1 0x05) := by decide
theorem test_decode_ldVxVy : decodeTableWord 16 0b1000_1111_0001_0000 = some (.ldVxVy 0xF 1) := by decide
theorem test_decode_or : decodeTableWord 16 0b1000_0001_0010_0001 = some (.or 1 2) := by decide
theorem test_decode_and : decodeTableWord 16 0b1000_0001_0010_0010 = some (.and 1 2) := by decide
theorem test_decode_xor : decodeTableWord 16 0b1000_0001_0010_0011 = some (.xor 1 2) := by decide
theorem test_decode_addVxVy : decodeTableWord 16 0b1000_0000_0001_0100 = some (.addVxVy 0 1) := by decide
theorem test_decode_sub : decodeTableWord 16 0b1000_0000_0001_0101 = some (.sub 0 1) := by decide
theorem test_decode_shr : decodeTableWord 16 0b1000_1010_1011_0110 = some (.shr 0xA 0xB) := by decide
theorem test_decode_subn : decodeTableWord 16 0b1000_0000_0001_0111 = some (.subn 0 1) := by decide
theorem test_decode_shl : decodeTableWord 16 0b1000_1010_1011_1110 = some (.shl 0xA 0xB) := by decide
theorem test_decode_sneVxVy : decodeTableWord 16 0b1001_0001_0010_0000 = some (.sneVxVy 1 2) := by decide
theorem test_decode_ldINnn : decodeTableWord 16 0b1010_0010_1111_0000 = some (.ldINnn 0x2F0) := by decide
theorem test_decode_jpV0 : decodeTableWord 16 0b1011_0011_0000_0000 = some (.jpV0 0x300) := by decide
theorem test_decode_rnd : decodeTableWord 16 0b1100_0011_0000_1111 = some (.rnd 3 0x0F) := by decide
theorem test_decode_drw : decodeTableWord 16 0b1101_0001_0010_1111 = some (.drw 1 2 0xF) := by decide
theorem test_decode_skp : decodeTableWord 16 0b1110_0100_1001_1110 = some (.skp 4) := by decide
theorem test_decode_sknp : decodeTableWord 16 0b1110_0100_1010_0001 = some (.sknp 4) := by decide
theorem test_decode_ldVxDt : decodeTableWord 16 0b1111_0101_0000_0111 = some (.ldVxDt 5) := by decide
theorem test_decode_ldVxK : decodeTableWord 16 0b1111_0011_0000_1010 = some (.ldVxK 3) := by decide
theorem test_decode_ldDtVx : decodeTableWord 16 0b1111_0101_0001_0101 = some (.ldDtVx 5) := by decide
theorem test_decode_ldStVx : decodeTableWord 16 0b1111_0101_0001_1000 = some (.ldStVx 5) := by decide
theorem test_decode_addIVx : decodeTableWord 16 0b1111_0001_0001_1110 = some (.addIVx 1) := by decide
theorem test_decode_ldFVx : decodeTableWord 16 0b1111_0010_0010_1001 = some (.ldFVx 2) := by decide
theorem test_decode_ldBVx : decodeTableWord 16 0b1111_0010_0011_0011 = some (.ldBVx 2) := by decide
theorem test_decode_ldMiVx : decodeTableWord 16 0b1111_0010_0101_0101 = some (.ldMiVx 2) := by decide
theorem test_decode_ldVxMi : decodeTableWord 16 0b1111_0001_0110_0101 = some (.ldVxMi 1) := by decide
theorem test_decode_illegal : decodeTableWord 16 0x5121 = none := by decide

/-! ### Meanings: vectors of 95_test_vectors.md -/

-- ALU-3, ALU-4
theorem test_add_immediate : (nextOf (exec (.addVxNn 1 0x05) (withRegs [(1, 0xFE)] .reset))).reg 1 = 0x03 := by decide
theorem test_add_immediate_flag : (nextOf (exec (.addVxNn 0xA 1) (withRegs [(0xA, 0xFF), (0xF, 7)] .reset))).reg 0xF = 7 := by decide
-- ALU-10, ALU-12, ALU-14
theorem test_or : (nextOf (exec (.or 1 2) (withRegs [(1, 0xA0), (2, 0x0A)] .reset))).reg 1 = 0xAA := by decide
theorem test_and : (nextOf (exec (.and 1 2) (withRegs [(1, 0xF0), (2, 0x3C)] .reset))).reg 1 = 0x30 := by decide
theorem test_xor : (nextOf (exec (.xor 1 2) (withRegs [(1, 0xF0), (2, 0x3C)] .reset))).reg 1 = 0xCC := by decide
-- ADD-6, ADD-8
theorem test_add_vf_dest : (nextOf (exec (.addVxVy 0xF 1) (withRegs [(0xF, 0xF0), (1, 0x20)] .reset))).reg 0xF = 1 := by decide
theorem test_add_vf_source : (nextOf (exec (.addVxVy 1 0xF) (withRegs [(1, 0x10), (0xF, 0xF5)] .reset))).reg 1 = 0x05 := by decide
-- SUB-4, SUB-6
theorem test_sub_vf_dest : (nextOf (exec (.sub 0xF 1) (withRegs [(0xF, 0x10), (1, 3)] .reset))).reg 0xF = 0xFE := by decide
theorem test_sub_vf_source : (nextOf (exec (.sub 1 0xF) (withRegs [(1, 0x10), (0xF, 3)] .reset))).reg 1 = 0x0F := by decide
-- SHR-1
theorem test_shr_ignores_y : (nextOf (exec (.shr 2 3) (withRegs [(2, 0xFF), (3, 0x55)] .reset))).reg 2 = 0x7F := by decide
-- SUBN-4, SUBN-7
theorem test_subn_vf_dest : (nextOf (exec (.subn 0xF 1) (withRegs [(0xF, 2), (1, 0x10)] .reset))).reg 0xF = 0x0F := by decide
theorem test_subn_vf_source : (nextOf (exec (.subn 1 0xF) (withRegs [(1, 9), (0xF, 5)] .reset))).reg 1 = 0xF7 := by decide
-- SHL-2, SHL-4
theorem test_shl_flag : (nextOf (exec (.shl 2 3) (withRegs [(2, 0x40)] .reset))).reg 0xF = 0 := by decide
theorem test_shl_vf : (nextOf (exec (.shl 0xF 0) (withRegs [(0xF, 0x80)] .reset))).reg 0xF = 2 := by decide
-- CTL-7, CTL-4, CTL-10
theorem test_ret_takes_last : (nextOf (exec .ret { State.reset with stack := [0x202, 0xFFF] })).pc = 0xFFF := by decide
theorem test_call_pushes_pc_next : (nextOf (exec (.call 0xFFE) (State.reset.setPc 0x202))).stack = [0x202] := by decide
theorem test_jpV0_keeps_sum : (nextOf (exec (.jpV0 0xFFF) (withRegs [(0, 0xFF)] .reset))).pc = 0x10FE := by decide
-- SKIP-2, SKIP-4, SKIP-5, SKIP-7
theorem test_se_not_taken : (nextOf (exec (.seVxNn 0xA 0x42) (withRegs [(0xA, 0x43)] (State.reset.setPc 0x202)))).pc = 0x202 := by decide
theorem test_sne_taken : (nextOf (exec (.sneVxNn 0xA 0x42) (withRegs [(0xA, 0x43)] (State.reset.setPc 0x202)))).pc = 0x204 := by decide
theorem test_se_vy_taken : (nextOf (exec (.seVxVy 1 2) (withRegs [(1, 7), (2, 7)] (State.reset.setPc 0x202)))).pc = 0x204 := by decide
theorem test_sne_vy_not_taken : (nextOf (exec (.sneVxVy 1 2) (withRegs [(1, 7), (2, 7)] (State.reset.setPc 0x202)))).pc = 0x202 := by decide
-- IDX-5, IDX-10
theorem test_add_i_wraps : (nextOf (exec (.addIVx 1) (withRegs [(1, 2)] (State.reset.setI 0xFFFF)))).i = 1 := by decide
theorem test_font_low_nibble : (nextOf (exec (.ldFVx 2) (withRegs [(2, 0x1A)] .reset))).i = 0x82 := by decide
-- S6, MEM-5
theorem test_bcd_234 : (nextOf (exec (.ldBVx 2) (withRegs [(2, 0xEA)] (State.reset.setI 0x300)))).mem = [(0x300, 2), (0x301, 3), (0x302, 4)] := by decide
theorem test_bcd_past_the_end : (nextOf (exec (.ldBVx 0) (withRegs [(0, 7)] (State.reset.setI 0xFFE)))).mem = [] := by decide
-- MEM-12, MEM-13
theorem test_store_over_font : (nextOf (exec (.ldMiVx 2) (withRegs [(0, 1), (1, 2), (2, 3)] (State.reset.setI 0x50)))).mem.bytesFrom 0x50 5 = [1, 2, 3, 0x90, 0xF0] := by decide
theorem test_load_last_bytes : (nextOf (exec (.ldVxMi 1) (withMem 0xFFE [0x12, 0x34] (State.reset.setI 0xFFE)))).reg 1 = 0x34 := by decide
-- KEY-6, KEY-9
theorem test_key_above_15 : ((nextOf (exec (.skp 4) (withRegs [(4, 0x10)] .reset))).fault.map (·.faultAddr)) = some 0x10 := by decide
theorem test_lowest_key : (nextOf (exec (.ldVxK 3) { State.reset with input := ⟨0x84, 0, 0, 0⟩ })).reg 3 = 2 := by decide
-- TMR-5, TMR-8
theorem test_tick_last_tone : (State.tick (State.reset.setSt 1)).2 = true := by decide
theorem test_tick_no_wrap : (State.tick State.reset).1.dt = 0 := by decide
-- DRW-5 (the pixel (31,63) and nothing below it), DRW-9
theorem test_draw_corner :
    Grid.get (nextOf (exec (.drw 0 1 3) (withMem 0x300 [0xFF, 0xFF, 0xFF] (withRegs [(0, 0xFF), (1, 0x3F)] (State.reset.setI 0x300))))).grid 31 63 = true := by
  decide
theorem test_draw_collision :
    (nextOf (exec (.drw 0 1 1) (withMem 0x300 [0xC0] { State.reset with i := 0x300, grid := Grid.set State.reset.grid 0 1 true }))).reg 0xF = 1 := by
  decide

/-! ### Steps -/

-- S10, first instruction; FETCH-5 (an odd pc)
theorem test_step_first : (execOnce (withMem 0x200 [0x60, 0x05] .reset) 0 0).reg 0 = 5 := by decide
theorem test_step_odd_pc : (execOnce (withMem 0x201 [0x60, 0x2A] (State.reset.setPc 0x201)) 0 0).pc = 0x203 := by decide
-- FETCH-2, and R261: `Exec` with no program
theorem test_fetch_at_0FFF : (execOnce (State.reset.setPc 0xFFF) 0 0).fault = some ⟨.memoryOutOfRange, 0xFFF, 0, 0x1000⟩ := by decide
theorem test_exec_without_program : (execOnce .reset 0 0).fault = some ⟨.illegalInstruction, 0x200, 0, 0⟩ := by decide
-- RND-3 through the whole event
theorem test_step_rnd : (execOnce (withMem 0x200 [0xC3, 0x0F] .reset) 0 0xB7).reg 3 = 7 := by decide
-- the image of P5
theorem test_load_event : (nextOf (step (withEvent (.load [0x60, 0x01]) .reset))).mem = [(0x200, 0x60), (0x201, 0x01)] := by decide

/-! ### Witnesses: the hypotheses of the statements can be met -/

/-- A state at `pc` with one `Exec` event to come. -/
def ready (pc : Word) : State := withEvent (.exec 0x0084 0xB7) (State.reset.setPc pc)

/-- A state that has recorded a fault. -/
def haltedState (e : Event) : State :=
  withEvent e { State.reset with fault := some ⟨.illegalInstruction, 0x200, 0, 0⟩, phase := .running }

theorem witness_EncodeOfDecodeIsTheWord : decode 0x8AB6 = .ok (.shr 0xA 0xB) := rfl

theorem witness_OpcodeMapDecidesTheInstruction :
    ∃ (w : Word) (r : OpcodeRow), r ∈ opcodeTable ∧ w &&& r.mask = r.bits :=
  ⟨0x00E0, ⟨"CLS", 0x00E0, 0xFFFF, .fixed⟩, by decide, by decide⟩

theorem witness_StepRunsTheDecodedInstruction :
    ∃ s : State, s.live ∧ s.nextEvent = .exec 0x0084 0xB7 ∧ s.pc.toNat ≤ 0x0FFE ∧
      decodeBytes [s.mem.byteAt s.pc.toNat, s.mem.byteAt (s.pc.toNat + 1)] = .ok (.ldVxNn 0 5, []) :=
  ⟨withMem 0xFFE [0x60, 0x05] (ready 0xFFE), by decide, by decide, by decide, rfl⟩

theorem witness_FetchOutOfRangeFaults :
    ∃ s : State, s.live ∧ s.nextEvent = .exec 0x0084 0xB7 ∧ s.pc.toNat = 0x0FFF :=
  ⟨ready 0xFFF, by decide, by decide, by decide⟩

theorem witness_IllegalWordFaults :
    ∃ s : State, s.live ∧ s.nextEvent = .exec 0x0084 0xB7 ∧ s.pc.toNat ≤ 0x0FFE ∧
      wordLegal (s.mem.byteAt s.pc.toNat ++ s.mem.byteAt (s.pc.toNat + 1)) = false :=
  ⟨ready 0xFFE, by decide, by decide, by decide, by decide⟩

theorem witness_HaltedBlockIgnoresExecAndTick_exec :
    ∃ s : State, s.halted ∧ s.phase ≠ .unusable ∧ s.nextEvent = .exec 1 2 :=
  ⟨haltedState (.exec 1 2), by decide, by decide, by decide⟩

theorem witness_HaltedBlockIgnoresExecAndTick_tick :
    ∃ s : State, s.halted ∧ s.phase ≠ .unusable ∧ s.nextEvent = .tick :=
  ⟨haltedState .tick, by decide, by decide, by decide⟩

theorem witness_OnlyResetClearsTheFaultLatch_reset :
    ∃ s t : State, s.halted ∧ step s = .next t ∧ s.nextEvent = .reset :=
  ⟨haltedState .reset, _, by decide, rfl, by decide⟩

theorem witness_OnlyResetClearsTheFaultLatch_other :
    ∃ s t : State, s.halted ∧ step s = .next t ∧ s.nextEvent ≠ .reset :=
  ⟨haltedState .tick, _, by decide, rfl, by decide⟩

theorem witness_ResetEventRestoresTheResetState : ∃ s : State, s.nextEvent = .reset := ⟨haltedState .reset, by decide⟩

theorem witness_LoadCopiesTheImage :
    ∃ (s : State) (image : List Byte), s.phase = .fresh ∧ Memory.wf s.mem = true ∧ s.nextEvent = .load image ∧
      image.length = 3584 :=
  ⟨withEvent (.load (List.replicate 3584 0)) .reset, List.replicate 3584 0, rfl, rfl, rfl, List.length_replicate⟩

theorem witness_LoadThatIsNotAllowedIsRefused_long :
    ∃ (s : State) (image : List Byte), s.phase = .fresh ∧ s.nextEvent = .load image ∧ image.length = 3585 :=
  ⟨withEvent (.load (List.replicate 3585 0)) .reset, List.replicate 3585 0, rfl, rfl, List.length_replicate⟩

theorem witness_LoadThatIsNotAllowedIsRefused_running :
    ∃ s : State, s.phase = .running ∧ s.nextEvent = .load [0x60, 0x01] :=
  ⟨withEvent (.load [0x60, 0x01]) State.reset.leaveReset, rfl, rfl⟩

theorem witness_LoadThatIsNotAllowedIsRefused_unusable :
    ∃ s : State, s.phase = .unusable ∧ s.nextEvent ≠ .reset :=
  ⟨withEvent .tick { State.reset with phase := .unusable }, rfl, by decide⟩

theorem witness_TickCountsBothTimersDown : ∃ s : State, s.live ∧ s.nextEvent = .tick ∧ s.st = 1 ∧ s.dt = 0 :=
  ⟨withEvent .tick (State.reset.setSt 1), by decide, by decide, by decide, by decide⟩

/-- A run with `ST` at 1: a tick, an `Exec` of `Fx15`, a tick. -/
def soundRun : Nat → State
  | 0 => { withMem 0x200 [0xF0, 0x15] (State.reset.setSt 1) with env := ⟨[.tick, .exec 0 0, .tick], 0, none⟩ }
  | j + 1 => nextOf (step (soundRun j))

theorem witness_ToneLastsAsManyTicksAsSoundTimer :
    (∀ j, j ≤ 2 → (soundRun j).live ∧ (soundRun j).nextKeepsSound ∧ step (soundRun j) = .next (soundRun (j + 1))) ∧
      (soundRun 0).nextEvent = .tick ∧ (soundRun 2).nextEvent = .tick ∧ ticksBefore soundRun 2 = (soundRun 0).st.toNat := by
  refine ⟨fun j hj => ?_, by decide, by decide, by decide⟩
  rcases j with _ | _ | _ | j
  · exact ⟨by decide, trivial, rfl⟩
  · refine ⟨by decide, fun x h => ?_, rfl⟩
    have hw : (0xF015 : Word) = encode (.ldStVx x) := by injection h
    revert hw
    revert x
    decide
  · exact ⟨by decide, trivial, rfl⟩
  · omega

theorem witness_PlacedWordIsRunByTheNextStep :
    Memory.wf State.reset.mem = true ∧ decodeTableWord 16 0xD12F = some (.drw 1 2 0xF) := by decide

theorem witness_registers_other_than_vf : ∃ x y : RegIx, x ≠ vf ∧ y ≠ vf := ⟨0, 14, by decide, by decide⟩

theorem witness_SkipsAdvanceByFourOrTwo :
    ∃ (a : Word) (s : State) (x : RegIx), a.toNat = 0x0FFE ∧ s.pc = a + 2 ∧ (s.reg x).toNat = 15 :=
  ⟨0xFFE, withRegs [(4, 15)] (State.reset.setPc 0x1000), 4, by decide, by decide, by decide⟩

theorem witness_CallPushesPcNext :
    ∃ s : State, s.stackDepth = some 1 ∧ ∀ d, s.stackDepth = some d → s.stack.length < d :=
  ⟨{ State.reset with stackDepth := some 1 }, rfl, by simp [State.reset]⟩

theorem witness_StackLimitsFault_call : ∃ s : State, s.stackDepth = some s.stack.length ∧ s.stack = [0x202] :=
  ⟨{ State.reset with stackDepth := some 1, stack := [0x202] }, rfl, rfl⟩

theorem witness_StackLimitsFault_return : ∃ s : State, s.stack = [] := ⟨State.reset, rfl⟩

theorem witness_ReturnPopsTheStack : ∃ (s : State) (l : List Word) (a : Word), s.stack = l ++ [a] :=
  ⟨{ State.reset with stack := [0x202, 0xFFF] }, [0x202], 0xFFF, rfl⟩

theorem witness_ReturnResumesAfterTheCall :
    ∃ s t u : State, s.fault = none ∧ exec (.call 0x300) s = .next t ∧ t.fault = none ∧ u.stack = t.stack :=
  ⟨State.reset, _, { State.reset with stack := [0x200] }, rfl, rfl, rfl, rfl⟩

theorem witness_JumpToSelfIsAFixedPoint :
    ∃ s : State, s.live ∧ s.nextEvent = .exec 0x0084 0xB7 ∧ s.pc.toNat = (0xFFE : Addr12).toNat ∧
      s.mem.byteAt (0xFFE : Addr12).toNat ++ s.mem.byteAt ((0xFFE : Addr12).toNat + 1) = encode (.jp 0xFFE) :=
  ⟨withMem 0xFFE [0x1F, 0xFE] (ready 0xFFE), by decide, by decide, by decide, by decide⟩

theorem witness_DecimalDigitsAreStored :
    (Memory.wf (State.reset.setI 0x0FFD).mem = true ∧ (State.reset.setI 0x0FFD).i.toNat = 0x0FFD) ∧
      0x0FFD < (State.reset.setI 0x0FFE).i.toNat := by decide

theorem witness_RegistersAreStored_and_RegistersAreLoaded :
    (Memory.wf (State.reset.setI 0x0FF0).mem = true ∧ (State.reset.setI 0x0FF0).i.toNat + (15 : RegIx).val = 0x0FFF) ∧
      0x0FFF < (State.reset.setI 0x0FF1).i.toNat + (15 : RegIx).val := by decide

theorem witness_StoreThenLoadRoundTrips :
    ∃ (x : RegIx) (s t u : State), Memory.wf s.mem = true ∧ s.i.toNat + x.val ≤ 0x0FFF ∧ exec (.ldMiVx x) s = .next t ∧
      u.mem = t.mem ∧ u.i = s.i :=
  ⟨3, State.reset.setI 0x400, _, _, by decide, by decide, rfl, rfl, rfl⟩

theorem witness_StoredBytesAreFetchedNext :
    (∃ s t u : State, Memory.wf s.mem = true ∧ u.mem = t.mem ∧ u.pc.toNat = 0x0FFE ∧ s.i.toNat = 0x0FFD ∧
      exec (.ldBVx 0) s = .next t) ∧
    ∃ s t u : State, Memory.wf s.mem = true ∧ u.mem = t.mem ∧ u.pc.toNat = 0x0FFE ∧ s.i.toNat + (0 : RegIx).val = 0x0FFF ∧
      exec (.ldMiVx 0) s = .next t :=
  ⟨⟨State.reset.setI 0xFFD, nextOf (exec (.ldBVx 0) (State.reset.setI 0xFFD)),
      State.setPc (nextOf (exec (.ldBVx 0) (State.reset.setI 0xFFD))) 0xFFE, by decide, rfl, by decide, by decide, rfl⟩,
    State.reset.setI 0xFFF, nextOf (exec (.ldMiVx 0) (State.reset.setI 0xFFF)),
    State.setPc (nextOf (exec (.ldMiVx 0) (State.reset.setI 0xFFF))) 0xFFE, by decide, rfl, by decide, by decide, rfl⟩

theorem witness_StoresReachOnlyMemory :
    ∃ s t t' : State, exec (.ldBVx 0) s = .next t ∧ exec (.call 0x300) s = .next t' := ⟨State.reset, _, _, rfl, rfl⟩

/-- `I` at 0x0FFC and a start row of 28: four rows are drawn, the last from 0x0FFF. -/
def drawEdge (i : Word) : State := withRegs [(1, 28)] (State.reset.setI i)

theorem witness_DrawIsTheLoopFreeFunction :
    spriteRows (drawEdge 0xFFC) 1 15 = 4 ∧ (drawEdge 0xFFC).i.toNat + spriteRows (drawEdge 0xFFC) 1 15 = 4096 := by decide

theorem witness_DrawOutOfRangeFaults :
    0 < spriteRows (drawEdge 0xFFD) 1 15 ∧ 4096 < (drawEdge 0xFFD).i.toNat + spriteRows (drawEdge 0xFFD) 1 15 := by decide

theorem witness_DrawOutOfRangeFaults_in_range : spriteRows (drawEdge 0xFFC) 1 0 = 0 := by decide

theorem witness_DrawingTwiceRestoresTheGrid :
    (0 : RegIx) ≠ vf ∧ (1 : RegIx) ≠ vf ∧ (drawEdge 0xFFC).i.toNat + spriteRows (drawEdge 0xFFC) 1 15 = 4096 := by decide

theorem witness_KeySkipsTestOneKey :
    ((withRegs [(4, 15)] State.reset).reg 4).toNat = 15 ∧ 15 < ((withRegs [(4, 16)] State.reset).reg 4).toNat := by decide

theorem witness_KeyWaitTakesTheLowestKey_none : ∀ k, k < 16 → State.reset.input.keys.getLsbD k = false := by decide

theorem witness_KeyWaitTakesTheLowestKey_some :
    ∃ s : State, s.input.keys.getLsbD 15 = true ∧ ∀ j, j < 15 → s.input.keys.getLsbD j = false :=
  ⟨{ State.reset with input := ⟨0x8000, 0, 0, 0⟩ }, by decide, by decide⟩

theorem witness_RegistersChangeOnlyByTheTable :
    ∃ (i : Instr) (s t : State) (q : RegIx), exec i s = .next t ∧ ¬ writesReg i q :=
  ⟨.ldVxMi 3, State.reset, _, 4, rfl, by simp [writesReg]⟩

theorem witness_StateChangesOnlyByItsOwners : ∃ (i : Instr) (s t : State), exec i s = .next t :=
  ⟨.ldVxNn 0 5, State.reset, _, rfl⟩

theorem witness_StoresTouchOnlyTheirBytes :
    ∃ (s t : State) (a : Nat), exec (.ldBVx 0) s = .next t ∧ s.ea 3 ≤ a :=
  ⟨State.reset.setI 0x300, _, 0x303, rfl, by decide⟩

theorem witness_PcFollowsTheTable : ∃ (i : Instr) (s t : State), s.fault = none ∧ exec i s = .next t :=
  ⟨.jp 0x234, State.reset, _, rfl, rfl⟩

theorem witness_InstructionFaults :
    ∃ (s t : State) (r : FaultRecord), s.fault = none ∧ exec .ret s = .next t ∧ t.fault = some r :=
  ⟨State.reset, _, _, rfl, rfl, rfl⟩

theorem witness_ExecEventFaultsArePrecise :
    ∃ (s t : State) (r : FaultRecord), s.live ∧ s.nextEvent = .exec 0x0084 0xB7 ∧ step s = .next t ∧ t.fault = some r :=
  ⟨ready 0x200, _, _, by decide, by decide, rfl, rfl⟩

theorem witness_InputsReachOnlyTheirInstructions :
    (∀ x nn, Instr.ldVxNn 0 5 ≠ .rnd x nn) ∧ ∀ x, Instr.ldVxNn 0 5 ≠ .skp x ∧ Instr.ldVxNn 0 5 ≠ .sknp x ∧
      Instr.ldVxNn 0 5 ≠ .ldVxK x := by
  simp

theorem witness_SoundTimerAndGridAreNotRead :
    (∀ x, Instr.ldVxDt 0 ≠ .ldStVx x) ∧ ∀ x y n, Instr.ldVxDt 0 ≠ .drw x y n ∧ Instr.ldVxDt 0 ≠ .cls := by
  simp

/-- A state other than reset that meets the invariant: one call deep, about to run a word. -/
def invState : State :=
  { withMem 0x200 [0x60, 0x05] (ready 0x200) with stack := [0x0202], stackDepth := some 2, phase := .running }

theorem witness_EveryStepKeepsTheInvariant : ∃ s t : State, s.Inv ∧ step s = .next t := by
  refine ⟨invState, _, ⟨by decide, by decide, ?_, ?_, rfl, ?_, fun _ => rfl⟩, rfl⟩
  · intro a ha
    rw [show a = 0x0202 from List.mem_singleton.1 ha]
    decide
  · intro d hd
    cases hd
    decide
  · intro r hr
    cases hr

end Sys2Proof.Tests
end

section
/-! PROOFS. The decoder on byte sequences (30_encoding.md R80, R93) and the words of 00_scope.md. -/

namespace Sys2Proof.Proofs

/-- Two bytes decode as their word does, and the bytes after them are left over (R80). -/
theorem decodeBytes_of_decode_ok {hi lo : Byte} {i : Instr} (h : decode (wordOfBytes hi lo) = .ok i) (rest : List Byte) :
    decodeBytes (hi :: lo :: rest) = .ok (i, rest) := by
  rw [decodeBytes, h]

/-- Two bytes whose word is rejected are rejected with the same reason (R93). -/
theorem decodeBytes_of_decode_error {hi lo : Byte} {e : Reject} (h : decode (wordOfBytes hi lo) = .error e)
    (rest : List Byte) : decodeBytes (hi :: lo :: rest) = .error e := by
  rw [decodeBytes, h]

/-- A lone byte is no instruction, whatever it holds. -/
theorem decodeBytes_singleton (b : Byte) : decodeBytes [b] = .error .truncated := rfl

/-- Settles O5: each pair of bytes decodes as its big-endian word, and the word is evaluated. -/
theorem wordsOfTheSpecDecode : Obligations.WordsOfTheSpecDecode := by
  refine ⟨?ret, ?jp, ?call, ?seVxNn, ?sneVxNn, ?seVxVy, ?ldVxNn, ?addVxNn, ?addVxVy, ?shr, ?sneVxVy, ?ldINnn, ?jpV0, ?rnd, ?drw,
    ?sknp, ?ldVxK, ?ldMiVx, ?illegal, ?loneByte⟩
  case illegal => exact decodeBytes_of_decode_error rfl []
  case loneByte => exact decodeBytes_singleton 0x60
  all_goals exact decodeBytes_of_decode_ok rfl []

end Sys2Proof.Proofs
end

section
/-! PROOFS. What the decoder's verdict says of the word: the row of R86 behind an instruction, and no row behind a rejection
(30_encoding.md R85 to R87, R93). -/

namespace Sys2Proof.Proofs

/-! ### The field that selects the family, from the decoded instruction -/

theorem opField_row_of_decodeFamily0 {w : Word} {i : Instr} (h : decodeFamily0 w = .ok i) : opField i.row.bits = 0x0 := by
  unfold decodeFamily0 at h
  split at h
  · cases h; decide
  · split at h <;> cases h
    decide

theorem opField_row_of_decodeFamily8 {w : Word} {i : Instr} (h : decodeFamily8 w = .ok i) : opField i.row.bits = 0x8 := by
  unfold decodeFamily8 at h
  split at h <;> cases h <;> simp only [Instr.row] <;> decide

theorem opField_row_of_decodeFamilyE {w : Word} {i : Instr} (h : decodeFamilyE w = .ok i) : opField i.row.bits = 0xE := by
  unfold decodeFamilyE at h
  split at h <;> cases h <;> simp only [Instr.row] <;> decide

theorem opField_row_of_decodeFamilyF {w : Word} {i : Instr} (h : decodeFamilyF w = .ok i) : opField i.row.bits = 0xF := by
  unfold decodeFamilyF at h
  split at h <;> cases h <;> simp only [Instr.row] <;> decide

/-- The top nibble of a decoded word is that of the instruction's own row (R84). -/
theorem opField_of_decode {w : Word} {i : Instr} (h : decode w = .ok i) : opField w = opField i.row.bits := by
  unfold decode at h
  split at h
  case h_1 hop => exact hop.trans (opField_row_of_decodeFamily0 h).symm
  case h_9 hop => exact hop.trans (opField_row_of_decodeFamily8 h).symm
  case h_15 hop => exact hop.trans (opField_row_of_decodeFamilyE h).symm
  case h_16 =>
    -- the last arm of the decoder: the one nibble that the other fifteen leave
    rw [opField_row_of_decodeFamilyF h]
    clear h
    generalize opField w = op at *
    decide +revert
  case h_6 hop | h_10 hop =>
    split at h <;> cases h
    rw [hop]; simp only [Instr.row]; decide
  all_goals
    rename_i hop
    cases h
    rw [hop]; simp only [Instr.row]; decide

/-! ### The row behind a matching word -/

/-- A row whose mask covers the top nibble fixes it (R86). -/
theorem opField_of_matchesWord {r : OpcodeRow} {w : Word} (hm : opField r.mask = 0xF) (h : r.matchesWord w = true) :
    opField w = opField r.bits := by
  rw [← beq_iff_eq.1 h, opField, opField, BitVec.extractLsb'_and]
  exact ((congrArg _ hm).trans (BitVec.and_allOnes (x := opField w))).symm

/-- A row whose mask covers `n` fixes it (R86). -/
theorem nField_of_matchesWord {r : OpcodeRow} {w : Word} (hm : nField r.mask = 0xF) (h : r.matchesWord w = true) :
    nField w = nField r.bits := by
  rw [← beq_iff_eq.1 h, nField, nField, BitVec.extractLsb'_and]
  exact ((congrArg _ hm).trans (BitVec.and_allOnes (x := nField w))).symm

/-- A row whose mask covers `nn` fixes it (R86). -/
theorem nnField_of_matchesWord {r : OpcodeRow} {w : Word} (hm : nnField r.mask = 0xFF) (h : r.matchesWord w = true) :
    nnField w = nnField r.bits := by
  rw [← beq_iff_eq.1 h, nnField, nnField, BitVec.extractLsb'_and]
  exact ((congrArg _ hm).trans (BitVec.and_allOnes (x := nnField w))).symm

/-! What the masks of the opcode map cover (R86): the top nibble always, `n` and `nn` where they select. -/

theorem opField_mask_of_mem : ∀ r ∈ opcodeTable, opField r.mask = 0xF := by decide
theorem nField_mask_of_mem : ∀ r ∈ rowsRegisterPair, nField r.mask = 0xF := by decide
theorem nnField_mask_of_mem : ∀ r ∈ rowsKeysTimersMemory, nnField r.mask = 0xFF := by decide

/-! A word that matches a row decodes, part of the map by part. -/

theorem decode_ok_of_rowsFixed {r : OpcodeRow} {w : Word} (hr : r ∈ rowsFixed) (h : r.matchesWord w = true) :
    ∃ i, decode w = .ok i := by
  have hw := beq_iff_eq.1 h
  simp only [rowsFixed, List.mem_cons, List.not_mem_nil, or_false] at hr
  rcases hr with rfl | rfl
  · exact ⟨.cls, by rw [show w = 0x00E0 from (BitVec.and_allOnes (x := w)).symm.trans hw]; rfl⟩
  · exact ⟨.ret, by rw [show w = 0x00EE from (BitVec.and_allOnes (x := w)).symm.trans hw]; rfl⟩

theorem decode_ok_of_rowsOneWordFamilies {r : OpcodeRow} {w : Word} (hr : r ∈ rowsOneWordFamilies)
    (hop : opField w = opField r.bits) :
    ∃ i, decode w = .ok i := by
  simp only [rowsOneWordFamilies, List.mem_cons, List.not_mem_nil, or_false] at hr
  rcases hr with rfl | rfl | rfl | rfl | rfl | rfl | rfl | rfl | rfl | rfl <;>
    exact ⟨_, by rw [decode, hop]; rfl⟩

theorem decode_ok_of_rowsRegisterPair {r : OpcodeRow} {w : Word} (hr : r ∈ rowsRegisterPair)
    (hop : opField w = opField r.bits) (hn : nField w = nField r.bits) : ∃ i, decode w = .ok i := by
  simp only [rowsRegisterPair, List.mem_cons, List.not_mem_nil, or_false] at hr
  rcases hr with rfl | rfl | rfl | rfl | rfl | rfl | rfl | rfl | rfl | rfl | rfl <;>
    exact ⟨_, by unfold decode decodeFamily8; rw [hop, hn]; rfl⟩

theorem decode_ok_of_rowsKeysTimersMemory {r : OpcodeRow} {w : Word} (hr : r ∈ rowsKeysTimersMemory)
    (hop : opField w = opField r.bits) (hnn : nnField w = nnField r.bits) : ∃ i, decode w = .ok i := by
  simp only [rowsKeysTimersMemory, List.mem_cons, List.not_mem_nil, or_false] at hr
  rcases hr with rfl | rfl | rfl | rfl | rfl | rfl | rfl | rfl | rfl | rfl | rfl <;>
    exact ⟨_, by unfold decode decodeFamilyE decodeFamilyF; rw [hop, hnn]; rfl⟩

/-- Every word that matches a row of the opcode map decodes (R86, R93). -/
theorem decode_ok_of_matchesWord {r : OpcodeRow} {w : Word} (hr : r ∈ opcodeTable) (h : r.matchesWord w = true) :
    ∃ i, decode w = .ok i := by
  have hop := opField_of_matchesWord (opField_mask_of_mem r hr) h
  simp only [opcodeTable, List.mem_append, or_assoc] at hr
  rcases hr with hr | hr | hr | hr
  · exact decode_ok_of_rowsFixed hr h
  · exact decode_ok_of_rowsOneWordFamilies hr hop
  · exact decode_ok_of_rowsRegisterPair hr hop (nField_of_matchesWord (nField_mask_of_mem r hr) h)
  · exact decode_ok_of_rowsKeysTimersMemory hr hop (nnField_of_matchesWord (nnField_mask_of_mem r hr) h)

/-- A word the decoder rejects is no instruction of the opcode map (R87, R93). -/
theorem wordLegal_eq_false_of_decode_error {w : Word} {e : Reject} (h : decode w = .error e) : wordLegal w = false := by
  by_contra hl
  obtain ⟨r, hr, hw⟩ := List.any_eq_true.1 (Bool.eq_true_of_not_eq_false hl)
  obtain ⟨i, hi⟩ := decode_ok_of_matchesWord hr hw
  exact absurd (h.symm.trans hi) (by simp)

end Sys2Proof.Proofs
end

section
/-! PROOFS. What the body of an instruction can do, said once for all 34: it completes, or it raises its one cause (10_state.md
R21, R24; 60_exceptions.md R236 to R238). The statements about registers, `pc` and the invariant are read off this. -/

namespace Sys2Proof.Proofs

open Sys2Proof.Machine

/-- What a body that does not fault leaves of the registers, the memory, the latch and the model's own fields. -/
structure Frame (i : Instr) (s t : State) : Prop where
  regs : ∀ q, ¬ writesReg i q → t.reg q = s.reg q
  memory : Memory.wf s.mem = true → Memory.wf t.mem = true
  fault : t.fault = s.fault
  own : s.SameOwn t

/-- What a body can make of the call stack: leave it, push `pc_next` on a stack with room, or pop it (R28, R29). -/
inductive StackMove (s : State) : List Word → Prop
  | keep : StackMove s s.stack
  | push (room : s.stackFull = false) : StackMove s (s.stack ++ [s.pc])
  | pop : StackMove s s.stack.dropLast

/-- The body of `i` completes: `pc` by the table of R24 and everything else within the frame. -/
structure Completes (i : Instr) (s t : State) : Prop where
  frame : Frame i s t
  pc : t.pc = pcAfter i s
  stack : StackMove s t.stack

/-- What a fault of the cause reports besides the instruction (R230, R237). -/
def ReportAllowed (cause : FaultCause) (info : Nat) : Prop :=
  match cause with
  | .memoryOutOfRange => Config.memSize ≤ info ∧ info < 2 ^ 16
  | .keyIndexOutOfRange => 15 < info ∧ info < 256
  | .illegalInstruction | .stackUnderflow | .stackOverflow => info = 0

/-- The body of `i` faults: with its own cause and nothing done (R236, R238, R241). -/
def Raises (i : Instr) (s t : State) : Prop :=
  ∃ cause info, t = s.raise cause info ∧ ownCause i = some cause ∧ ReportAllowed cause info

/-! ### The frame, rule by rule -/

section Frame

variable {i : Instr} {s t : State}

/-- A body that leaves registers, memory, latch and the model's own fields as they were is within every frame. -/
theorem Frame.of_same (hv : t.v = s.v := by rfl) (hm : t.mem = s.mem := by rfl) (hf : t.fault = s.fault := by rfl)
    (ho : s.SameOwn t := by exact ⟨rfl, rfl, rfl, rfl⟩) : Frame i s t :=
  ⟨fun q _ => by rw [State.reg, State.reg]; simp only [hv], fun h => hm ▸ h, hf, ho⟩

/-- A register write keeps the frame where the table of R21 names the register. -/
theorem Frame.setReg (h : Frame i s t) {x : RegIx} {b : Byte} (hx : writesReg i x := by simp [writesReg]) :
    Frame i s (t.setReg x b) where
  regs q hq := by
    rw [State.reg_setReg_other t x q b (fun e => hq (e ▸ hx))]
    exact h.regs q hq
  memory := h.memory
  fault := h.fault
  own := h.own

/-- A flag write keeps the frame where the table of R21 names VF (R22). -/
theorem Frame.setFlag (h : Frame i s t) {f : Bool} (hx : writesReg i vf := by simp [writesReg]) : Frame i s (t.setFlag f) :=
  h.setReg hx

/-- `V[0]` .. taking bytes keeps the frame where the table of R21 names those registers (R176). -/
theorem Frame.setRegs {bs : List Byte} (hw : ∀ q, q.val < bs.length → writesReg i q) :
    Frame i s (s.setRegs bs) where
  regs q hq := by rw [State.reg_setRegs, if_neg (fun hlt => hq (hw q hlt))]
  memory := id
  fault := rfl
  own := ⟨rfl, rfl, rfl, rfl⟩

end Frame

/-! ### The shared operations that branch -/

/-- The one data addressing mode starts from a 16-bit base (R171). -/
theorem ea_zero_lt (s : State) : s.ea 0 < 2 ^ 16 := s.i.isLt

/-- No key is found exactly when the snapshot is 0 (R212, R244). -/
theorem lowestKey?_eq_none_iff (s : State) : s.lowestKey? = none ↔ s.input.keys = 0 := by
  simp only [State.lowestKey?, List.find?_eq_none, List.mem_range, State.keyDown, Bool.not_eq_true]
  refine ⟨fun h => BitVec.eq_of_getLsbD_eq fun k hk => ?_, fun h k _ => ?_⟩
  · rw [h k hk]; exact BitVec.getLsbD_zero.symm
  · rw [h]; exact BitVec.getLsbD_zero

section Branches

variable {i : Instr} {s : State}

/-- A skip completes where the table of R24 has it (R128). -/
theorem completes_skipIf {c : Bool} (hpc : (if c then s.pc + 2 else s.pc) = pcAfter i s) : Completes i s (s.skipIf c) where
  frame := .of_same (s.skipIf_v c) (s.skipIf_mem c) (s.skipIf_fault c)
    ⟨s.skipIf_stackDepth c, s.skipIf_phase c, s.skipIf_input c, s.skipIf_env c⟩
  pc := (s.skipIf_pc c).trans hpc
  stack := by rw [State.skipIf_stack]; exact .keep

/-- An access that runs out of memory is the instruction's own fault, with the lowest address at or above 4096 (R52, R233). -/
theorem raises_outOfRange {base : Nat} (hc : ownCause i = some .memoryOutOfRange) (hb : base < 2 ^ 16) :
    Raises i s (s.raise .memoryOutOfRange (max base Config.memSize)) :=
  ⟨_, _, rfl, hc, le_max_right _ _, max_lt hb (by decide)⟩

/-- A checked read completes as its continuation does, or raises (R52). -/
theorem withBytes_result {base n : Nat} {k : List Byte → State} (hc : ownCause i = some .memoryOutOfRange)
    (hb : base < 2 ^ 16) (hk : Completes i s (k (s.mem.bytesFrom base n))) :
    Completes i s (s.withBytes base n k) ∨ Raises i s (s.withBytes base n k) := by
  by_cases h : n = 0 ∨ base + n ≤ Config.memSize
  · rw [State.withBytes_ok s base n k h]; exact .inl hk
  · rw [State.withBytes_raise s base n k h]; exact .inr (raises_outOfRange hc hb)

/-- A checked store completes with the memory in canonical form, or raises (R53, R241). -/
theorem storeBytes_result {base : Nat} {bs : List Byte} (hc : ownCause i = some .memoryOutOfRange)
    (hb : base < 2 ^ 16) (hpc : pcAfter i s = s.pc) :
    Completes i s (s.storeBytes base bs) ∨ Raises i s (s.storeBytes base bs) := by
  by_cases h : bs.length = 0 ∨ base + bs.length ≤ Config.memSize
  · rw [State.storeBytes_ok s base bs h]
    have hwf (hm : Memory.wf s.mem = true) := wf_writeBytes s.mem _ hm base bs (writeBytes_ok s.mem base bs h)
    exact .inl ⟨⟨fun _ _ => rfl, hwf, rfl, rfl, rfl, rfl, rfl⟩, hpc.symm, .keep⟩
  · rw [State.storeBytes_raise s base bs h]; exact .inr (raises_outOfRange hc hb)

/-- The key skips: a key number above 15 raises, and any other tests its key (R210, R211, R235). -/
theorem skipOnKey_result {wanted : Bool} {x : RegIx} (hc : ownCause i = some .keyIndexOutOfRange)
    (hpc : pcAfter i s = if s.keyDown (s.reg x).toNat = wanted then s.pc + 2 else s.pc) :
    Completes i s (skipOnKey wanted x s) ∨ Raises i s (skipOnKey wanted x s) := by
  rw [skipOnKey]
  split
  case isTrue h => exact .inr ⟨_, _, rfl, hc, h, (s.reg x).isLt⟩
  case isFalse => exact .inl (completes_skipIf (by simp only [beq_iff_eq, hpc]))

end Branches

/-! ### All 34 instructions -/

/-- What the body of an instruction can do: complete or raise. No instruction stops the machine. -/
theorem exec_result (s : State) : ∀ i, ∃ t, exec i s = .next t ∧ (Completes i s t ∨ Raises i s t)
  | .cls => ⟨_, rfl, .inl ⟨.of_same, rfl, .keep⟩⟩
  | .ret => by
    refine ⟨_, rfl, ?_⟩
    split
    case h_1 => exact .inr ⟨_, _, rfl, rfl, rfl⟩
    case h_2 a h => exact .inl ⟨.of_same, by rw [pcAfter, ← State.top?, h]; rfl, .pop⟩
  | .jp nnn => ⟨_, rfl, .inl ⟨.of_same, rfl, .keep⟩⟩
  | .call nnn => by
    refine ⟨_, rfl, ?_⟩
    split
    case isTrue => exact .inr ⟨_, _, rfl, rfl, rfl⟩
    case isFalse h => exact .inl ⟨.of_same, rfl, .push (Bool.eq_false_iff.2 h)⟩
  | .seVxNn x nn => ⟨_, rfl, .inl (completes_skipIf (by simp only [pcAfter, beq_iff_eq]))⟩
  | .sneVxNn x nn => ⟨_, rfl, .inl (completes_skipIf (by simp only [pcAfter, bne_iff_ne]))⟩
  | .seVxVy x y => ⟨_, rfl, .inl (completes_skipIf (by simp only [pcAfter, beq_iff_eq]))⟩
  | .sneVxVy x y => ⟨_, rfl, .inl (completes_skipIf (by simp only [pcAfter, bne_iff_ne]))⟩
  | .ldVxNn x nn => ⟨_, rfl, .inl ⟨.setReg .of_same, rfl, .keep⟩⟩
  | .addVxNn x nn => ⟨_, rfl, .inl ⟨.setReg .of_same, rfl, .keep⟩⟩
  | .ldVxVy x y => ⟨_, rfl, .inl ⟨.setReg .of_same, rfl, .keep⟩⟩
  | .or x y => ⟨_, rfl, .inl ⟨.setReg .of_same, rfl, .keep⟩⟩
  | .and x y => ⟨_, rfl, .inl ⟨.setReg .of_same, rfl, .keep⟩⟩
  | .xor x y => ⟨_, rfl, .inl ⟨.setReg .of_same, rfl, .keep⟩⟩
  | .addVxVy x y => ⟨_, rfl, .inl ⟨.setFlag (.setReg .of_same), rfl, .keep⟩⟩
  | .sub x y => ⟨_, rfl, .inl ⟨.setReg (.setFlag .of_same), rfl, .keep⟩⟩
  | .shr x y => ⟨_, rfl, .inl ⟨.setReg (.setFlag .of_same), rfl, .keep⟩⟩
  | .subn x y => ⟨_, rfl, .inl ⟨.setReg (.setFlag .of_same), rfl, .keep⟩⟩
  | .shl x y => ⟨_, rfl, .inl ⟨.setReg (.setFlag .of_same), rfl, .keep⟩⟩
  | .ldINnn nnn => ⟨_, rfl, .inl ⟨.of_same, rfl, .keep⟩⟩
  | .jpV0 nnn => ⟨_, rfl, .inl ⟨.of_same, rfl, .keep⟩⟩
  | .rnd x nn => ⟨_, rfl, .inl ⟨.setReg .of_same, rfl, .keep⟩⟩
  | .drw x y n => ⟨_, rfl, withBytes_result rfl (ea_zero_lt s) ⟨.setFlag .of_same, rfl, .keep⟩⟩
  | .skp x => ⟨_, rfl, skipOnKey_result rfl rfl⟩
  | .sknp x => ⟨_, rfl, skipOnKey_result rfl rfl⟩
  | .ldVxDt x => ⟨_, rfl, .inl ⟨.setReg .of_same, rfl, .keep⟩⟩
  | .ldVxK x => by
    refine ⟨_, rfl, .inl ?_⟩
    split
    case h_1 h => exact ⟨.of_same, by rw [pcAfter, if_pos ((lowestKey?_eq_none_iff s).1 h)]; rfl, .keep⟩
    case h_2 h =>
      have hk : s.input.keys ≠ 0 := fun h0 => by rw [(lowestKey?_eq_none_iff s).2 h0] at h; cases h
      exact ⟨.setReg .of_same, by rw [pcAfter, if_neg hk]; rfl, .keep⟩
  | .ldDtVx x => ⟨_, rfl, .inl ⟨.of_same, rfl, .keep⟩⟩
  | .ldStVx x => ⟨_, rfl, .inl ⟨.of_same, rfl, .keep⟩⟩
  | .addIVx x => ⟨_, rfl, .inl ⟨.of_same, rfl, .keep⟩⟩
  | .ldFVx x => ⟨_, rfl, .inl ⟨.of_same, rfl, .keep⟩⟩
  | .ldBVx x => ⟨_, rfl, storeBytes_result rfl (ea_zero_lt s) rfl⟩
  | .ldMiVx x => ⟨_, rfl, storeBytes_result rfl (ea_zero_lt s) rfl⟩
  | .ldVxMi x => ⟨_, rfl, withBytes_result rfl (ea_zero_lt s) ⟨.setRegs fun q hq => by
      rw [bytesFrom_length] at hq; exact Nat.le_of_lt_succ hq, rfl, .keep⟩⟩

/-- The result of a body, for a given next state. -/
theorem exec_cases {i : Instr} {s t : State} (h : exec i s = .next t) : Completes i s t ∨ Raises i s t := by
  obtain ⟨u, hu, hr⟩ := exec_result s i
  cases hu.symm.trans h
  exact hr

end Sys2Proof.Proofs
end

section
/-! PROOFS. The invariant of the machine (Safety.lean; 10_state.md R25, R29, R36; 20_memory.md R50; 41_control_flow.md R120;
60_exceptions.md R237): it holds at reset and every event keeps it. -/

namespace Sys2Proof.Proofs

open Sys2Proof.Machine

/-! ### Fault records -/

/-- `00EE` is the one word of its row (R86). -/
theorem eq_encode_ret_of_decode {w : Word} (h : decode w = .ok .ret) : w = encode .ret := by
  have hop : opField w = 0x0#4 := (opField_of_decode h).trans (by decide)
  simp only [decode, hop, decodeFamily0] at h
  split at h
  · cases h
  · split at h
    · assumption
    · cases h

/-- The record of a body's fault says what its cause allows, the word being the instruction's own (R230, R237). -/
theorem consistent_of_ownCause {i : Instr} {cause : FaultCause} {info : Nat} {a w : Word} (hd : decode w = .ok i)
    (hc : ownCause i = some cause) (hr : ReportAllowed cause info) :
    FaultRecord.consistent ⟨cause, a, w, BitVec.ofNat 16 info⟩ := by
  cases cause
  case illegalInstruction => cases i <;> cases hc
  case stackUnderflow =>
    cases i <;> cases hc
    exact ⟨eq_encode_ret_of_decode hd, congrArg (BitVec.ofNat 16) hr⟩
  case memoryOutOfRange =>
    obtain ⟨hlow, hhigh⟩ := hr
    simpa only [FaultRecord.consistent, BitVec.toNat_ofNat, Nat.mod_eq_of_lt hhigh] using hlow
  case stackOverflow =>
    cases i <;> cases hc
    exact ⟨(opField_of_decode hd).trans (by simp only [Instr.row]; decide), congrArg (BitVec.ofNat 16) hr⟩
  case keyIndexOutOfRange =>
    obtain ⟨hlow, hhigh⟩ := hr
    have hinfo : (BitVec.ofNat 16 info).toNat = info := Nat.mod_eq_of_lt (by omega)
    refine ⟨(opField_of_decode hd).trans ?_, hinfo.symm ▸ hlow, hinfo.symm ▸ hhigh⟩
    cases i <;> cases hc <;> simp only [Instr.row] <;> decide

/-! ### Bounds on `pc` and on the call stack -/

/-- A 12-bit address is at most 0x0FFF (R83). -/
theorem zextAddr_le (nnn : Addr12) : (zextAddr nnn).toNat ≤ 0x0FFF := by
  rw [BitVec.toNat_setWidth]
  exact (Nat.mod_le _ _).trans (Nat.le_of_lt_succ nnn.isLt)

/-- "the largest values `pc` can take are ... and 0x10FE": the jump with offset (R25, R127). -/
theorem jpV0_target_le (nnn : Addr12) (b : Byte) : (zextAddr nnn + zextByte b).toNat ≤ 0x10FE := by
  have hn := zextAddr_le nnn
  have hb : (zextByte b).toNat ≤ 0xFF := by
    rw [BitVec.toNat_setWidth]
    exact (Nat.mod_le _ _).trans (Nat.le_of_lt_succ b.isLt)
  rw [BitVec.toNat_add]
  omega

/-- "the largest values `pc` can take are 0x1002 ...": a skip (R25, R128). -/
theorem skip_target_le {pc : Word} (hpc : pc.toNat ≤ 0x1000) (c : Prop) [Decidable c] :
    (if c then pc + 2 else pc).toNat ≤ 0x10FE := by
  split
  · bv_omega
  · omega

/-- A return takes an address off the stack (R120). -/
theorem ret_target_le {l : List Word} (h : ∀ a ∈ l, 0x0002 ≤ a.toNat ∧ a.toNat ≤ 0x1000) :
    (l.getLast?.getD 0).toNat ≤ 0x10FE := by
  cases hl : l.getLast? with
  | none => decide
  | some a => exact (h a (List.mem_of_getLast? hl)).2.trans (by decide)

/-- Where a body leaves `pc` is at most 0x10FE (R25), from `pc_next` and return addresses in their ranges. -/
theorem pcAfter_le {s : State} (hlow : 0x0002 ≤ s.pc.toNat) (hhigh : s.pc.toNat ≤ 0x1000)
    (hstack : ∀ a ∈ s.stack, 0x0002 ≤ a.toNat ∧ a.toNat ≤ 0x1000) (i : Instr) : (pcAfter i s).toNat ≤ 0x10FE := by
  cases i
  case ret => exact ret_target_le hstack
  case jp nnn | call nnn => exact (zextAddr_le nnn).trans (by decide)
  case jpV0 nnn => exact jpV0_target_le nnn _
  case seVxNn | sneVxNn | seVxVy | sneVxVy | skp | sknp => exact skip_target_le hhigh _
  case ldVxK =>
    rw [pcAfter]
    split
    · bv_omega
    · omega
  all_goals exact hhigh.trans (by decide)

/-- The stack after a body holds return addresses, a pushed `pc_next` being one (R120, R122). -/
theorem StackMove.returnAddresses {s : State} {l : List Word} (h : StackMove s l) (hlow : 0x0002 ≤ s.pc.toNat)
    (hhigh : s.pc.toNat ≤ 0x1000) (hstack : ∀ a ∈ s.stack, 0x0002 ≤ a.toNat ∧ a.toNat ≤ 0x1000) :
    ∀ a ∈ l, 0x0002 ≤ a.toNat ∧ a.toNat ≤ 0x1000 := by
  cases h with
  | keep => exact hstack
  | push room =>
    intro a ha
    rcases List.mem_append.1 ha with ha | ha
    · exact hstack a ha
    · rw [List.mem_singleton.1 ha]; exact ⟨hlow, hhigh⟩
  | pop => exact fun a ha => hstack a (List.mem_of_mem_dropLast ha)

/-- The stack after a body is within `STACK_DEPTH`, a push finding room (R29). -/
theorem StackMove.depth {s : State} {l : List Word} (h : StackMove s l)
    (hdepth : ∀ d, s.stackDepth = some d → s.stack.length ≤ d) (d : Nat) (hd : s.stackDepth = some d) : l.length ≤ d := by
  cases h with
  | keep => exact hdepth d hd
  | push room =>
    have hlt : ¬ d ≤ s.stack.length := fun hle => by simp [s.stackFull_iff.2 ⟨d, hd, hle⟩] at room
    rw [List.length_append, List.length_singleton]
    omega
  | pop =>
    rw [List.length_dropLast]
    exact (Nat.sub_le _ _).trans (hdepth d hd)

/-! ### Within an `Exec` event -/

/-- What holds of the state within an `Exec` event, from its start to its end: the invariant less what the body is about to
change, and the address a fault puts `pc` back to. -/
structure Executing (s : State) : Prop where
  memory : Memory.wf s.mem = true
  fetchPcBound : s.input.fetchPc.toNat ≤ 0x10FE
  returnAddresses : ∀ a ∈ s.stack, 0x0002 ≤ a.toNat ∧ a.toNat ≤ 0x1000
  depth : ∀ d, s.stackDepth = some d → s.stack.length ≤ d
  noFault : s.fault = none
  running : s.phase = .running

section Executing

variable {s t : State}

/-- The state an `Exec` event starts from. -/
theorem Executing.beginExec (h : s.Inv) (hf : s.fault = none) (keys : BitVec 16) (rnd : Byte) :
    Executing (s.leaveReset.beginExec keys rnd) :=
  ⟨h.memory, h.pcBound, h.returnAddresses, h.depth, hf, rfl⟩

/-- The fetch moves `pc` and records the word, which this part of the invariant does not speak of (R102). -/
theorem Executing.afterFetch (h : Executing s) (w : Word) : Executing (s.afterFetch w) :=
  ⟨h.memory, h.fetchPcBound, h.returnAddresses, h.depth, h.noFault, h.running⟩

/-- A fault with a record its cause allows ends the event within the invariant. -/
theorem Executing.inv_raise (h : Executing s) {cause : FaultCause} {info : Nat}
    (hr : FaultRecord.consistent ⟨cause, s.input.fetchPc, s.input.fetchWord, BitVec.ofNat 16 info⟩) :
    (s.raise cause info).endExec.Inv where
  memory := h.memory
  pcBound := h.fetchPcBound
  returnAddresses := h.returnAddresses
  depth := h.depth
  noInput := rfl
  record r hr' := by cases hr'; exact ⟨rfl, hr⟩
  latched _ := h.running

/-- A body that completes ends the event within the invariant. -/
theorem Executing.inv_of_completes {i : Instr} (h : Executing s) (hlow : 0x0002 ≤ s.pc.toNat) (hhigh : s.pc.toNat ≤ 0x1000)
    (hc : Completes i s t) : t.endExec.Inv := by
  obtain ⟨⟨-, hmem, hfault, hdepth, hphase, -, -⟩, hpc, hstack⟩ := hc
  have noFault : t.fault = none := hfault.trans h.noFault
  exact {
    memory := hmem h.memory
    pcBound := (congrArg BitVec.toNat hpc).trans_le (pcAfter_le hlow hhigh h.returnAddresses i)
    returnAddresses := hstack.returnAddresses hlow hhigh h.returnAddresses
    depth := fun d hd => hstack.depth h.depth d (hdepth.symm.trans hd)
    noInput := rfl
    record := fun r hr => absurd (noFault.symm.trans hr) (by simp)
    latched := fun hf => absurd noFault hf }

/-- Decode and body keep the invariant, for an illegal word and for each of the 34 instructions (R103, R231). -/
theorem Executing.inv_dispatchWord (h : Executing s) (hlow : 0x0002 ≤ s.pc.toNat) (hhigh : s.pc.toNat ≤ 0x1000)
    (ht : dispatchWord s.input.fetchWord s = .next t) : t.endExec.Inv := by
  cases hd : decode s.input.fetchWord with
  | error e =>
    cases (dispatchWord_illegal _ e s hd).symm.trans ht
    exact h.inv_raise ⟨wordLegal_eq_false_of_decode_error hd, rfl⟩
  | ok i =>
    rcases exec_cases ((dispatchWord_ok _ i s hd).symm.trans ht) with hc | ⟨cause, info, rfl, hc, hr⟩
    · exact h.inv_of_completes hlow hhigh hc
    · exact h.inv_raise (consistent_of_ownCause hd hc hr)

/-- The whole cycle keeps the invariant, whatever faults in it (R107). -/
theorem Executing.inv_cycle (h : Executing s) (hpc : s.pc.toNat ≤ 0x10FE) (ht : cycle s = .next t) : t.endExec.Inv := by
  by_cases hr : s.pc.toNat + 2 ≤ Config.memSize
  · rw [cycle_fetch_ok s hr] at ht
    have hnext : (s.pc + 2).toNat = s.pc.toNat + 2 := by
      have : Config.memSize = 4096 := rfl
      bv_omega
    exact (h.afterFetch _).inv_dispatchWord (hnext.ge.trans' (Nat.le_add_left _ _)) (hnext.trans_le hr) ht
  · cases (cycle_fetch_error s hr).symm.trans ht
    refine h.inv_raise ?_
    have hmod : max s.pc.toNat Config.memSize < 2 ^ 16 := max_lt s.pc.isLt (by decide)
    simp only [FaultRecord.consistent, BitVec.toNat_ofNat, Nat.mod_eq_of_lt hmod, le_max_right]

end Executing

/-! ### Every event -/

section Events

variable {s t : State}

/-- Taking an event off the queue touches only the queue. -/
theorem inv_takeEvent (h : s.Inv) : s.takeEvent.Inv := { h with }

/-- The reset state meets the invariant: nothing on the stack, no fault, `pc` at 0x0200 (R38). -/
theorem inv_reset : State.reset.Inv where
  memory := wf_reset
  pcBound := by decide
  returnAddresses := List.forall_mem_nil _
  depth _ _ := Nat.zero_le _
  noInput := rfl
  record _ hr := nomatch hr
  latched hf := absurd rfl hf

/-- A reset, from every state and for every `STACK_DEPTH` (R260). -/
theorem inv_resetEvent (s : State) : s.resetEvent.Inv := { inv_reset with depth := fun _ _ => Nat.zero_le _ }

/-- A block in the reset state is not halted (R261). -/
theorem noFault_of_fresh (h : s.Inv) (hp : s.phase = .fresh) : s.fault = none := by
  by_contra hf
  exact absurd (hp.symm.trans (h.latched hf)) (by decide)

/-- A load that fits is copied within memory, and one that does not leaves a block without a fault (R263). -/
theorem inv_loadEvent (h : s.Inv) {image : List Byte} (ht : s.loadEvent image = .next t) : t.Inv := by
  rw [State.loadEvent] at ht
  split at ht
  case h_1 hp =>
    cases ht
    split
    case isTrue hfit =>
      have hend : Config.progBase + image.length ≤ Config.memSize := by
        simp only [Config.maxImage, Config.progBase, Config.memSize] at hfit ⊢
        omega
      exact { h with memory := wf_setBytes image s.mem h.memory _ hend, latched := fun _ => rfl }
    case isFalse => exact { h with latched := fun hf => absurd (noFault_of_fresh h hp) hf }
  case h_2 => cases ht
  case h_3 => cases ht

/-- An `Exec` event that answers a next state ends the body that did. -/
theorem eq_endExec_of_endExecOutcome {o : Host.Outcome State Fault Refusal} (h : State.endExecOutcome o = .next t) :
    ∃ u, o = .next u ∧ t = u.endExec := by
  cases o with
  | next u => cases h; exact ⟨u, rfl, rfl⟩
  | fault r => cases h
  | refused r => cases h

/-- An `Exec`: nothing on a halted block, and one cycle otherwise (R105, R107). -/
theorem inv_execEvent (h : s.Inv) {keys : BitVec 16} {rnd : Byte} (ht : execEvent keys rnd s = .next t) : t.Inv := by
  by_cases hp : s.phase = .unusable
  · cases (execEvent_unusable keys rnd s hp).symm.trans ht
  · cases hf : s.fault with
    | some r =>
      cases (execEvent_halted keys rnd s hp (by rw [hf]; rfl)).symm.trans ht
      exact h
    | none =>
      rw [execEvent_live keys rnd s hp hf] at ht
      obtain ⟨u, hu, rfl⟩ := eq_endExec_of_endExecOutcome ht
      exact (Executing.beginExec h hf keys rnd).inv_cycle h.pcBound hu

/-- Counting the timers down touches only the timers (R220). -/
theorem inv_tick (h : s.Inv) : s.tick.1.Inv := by
  rw [State.tick]
  split
  · exact h
  · exact { h with }

/-- A `Tick` counts the timers down, which the invariant does not speak of (R220). -/
theorem inv_tickEvent (h : s.Inv) (ht : s.tickEvent = .next t) : t.Inv := by
  rw [State.tickEvent] at ht
  split at ht
  case h_1 => cases ht
  case h_2 =>
    cases ht
    have hleft : s.leaveReset.Inv := { h with latched := fun _ => rfl }
    exact { inv_tick hleft with }

/-- The transition of every event keeps the invariant (R262). -/
theorem inv_runEvent (h : s.Inv) : ∀ e, runEvent e s = .next t → t.Inv
  | .reset, ht => by cases ht; exact inv_resetEvent s
  | .load _, ht => inv_loadEvent h ht
  | .exec _ _, ht => inv_execEvent h ht
  | .tick, ht => inv_tickEvent h ht

end Events

/-- Settles O59, field by field of the reset state. -/
theorem invariantHoldsAtReset : Obligations.InvariantHoldsAtReset := inv_reset

/-- Settles O60: a step is its event, and each of the four events keeps the invariant. -/
theorem everyStepKeepsTheInvariant : Obligations.EveryStepKeepsTheInvariant :=
  fun s _ h ht => inv_runEvent (inv_takeEvent h) s.nextEvent ((step_eq s).symm.trans ht)

end Sys2Proof.Proofs
end

section
/-! PROOFS. The statements of 10_state.md on registers, `pc`, what is not read, and the reset state. -/

namespace Sys2Proof.Proofs

open Sys2Proof.Machine

/-! ### Registers and `pc` -/

/-- Settles O50: a body that completes keeps to its frame, and one that raises touches no register. -/
theorem registersChangeOnlyByTheTable : Obligations.RegistersChangeOnlyByTheTable := by
  intro i s t q h hq
  rcases exec_cases h with hc | ⟨cause, info, rfl, -, -⟩
  · exact hc.frame.regs q hq
  · exact s.raise_reg cause info q

/-- Settles O53: with no fault latched before, the latch says whether the body completed or raised. -/
theorem pcFollowsTheTable : Obligations.PcFollowsTheTable := by
  intro i s t hs h
  rcases exec_cases h with hc | ⟨cause, info, rfl, -, -⟩
  · rw [if_pos (hc.frame.fault.trans hs)]
    exact hc.pc
  · rw [State.raise_fault, if_neg (Option.some_ne_none _)]
    exact s.raise_pc cause info

/-! ### What is not read -/

/-- The state with another value of `ST`, another grid, both or neither: what an instruction does not read (R31, R33). -/
def overlay (b : Option Byte) (g : Option Grid) (s : State) : State :=
  { s with st := b.getD s.st, grid := g.getD s.grid }

section Overlay

variable (b : Option Byte) (g : Option Grid) (s : State)

/-! Each shared operation commutes with the overlay: it reads neither field. -/

theorem skipIf_overlay (c : Bool) : (overlay b g s).skipIf c = overlay b g (s.skipIf c) := by
  cases c <;> rfl

theorem withBytes_overlay {base n : Nat} {k k' : List Byte → State}
    (hk : ∀ bs, k' bs = overlay b g (k bs)) :
    (overlay b g s).withBytes base n k' = overlay b g (s.withBytes base n k) := by
  by_cases h : n = 0 ∨ base + n ≤ Config.memSize
  · rw [State.withBytes_ok _ _ _ _ h, State.withBytes_ok _ _ _ _ h]; exact hk _
  · rw [State.withBytes_raise _ _ _ _ h, State.withBytes_raise _ _ _ _ h]; rfl

theorem storeBytes_overlay (base : Nat) (bs : List Byte) :
    (overlay b g s).storeBytes base bs = overlay b g (s.storeBytes base bs) := by
  by_cases h : bs.length = 0 ∨ base + bs.length ≤ Config.memSize
  · rw [State.storeBytes_ok _ _ _ h, State.storeBytes_ok _ _ _ h]; rfl
  · rw [State.storeBytes_raise _ _ _ h, State.storeBytes_raise _ _ _ h]; rfl

theorem skipOnKey_overlay (wanted : Bool) (x : RegIx) :
    skipOnKey wanted x (overlay b g s) = overlay b g (skipOnKey wanted x s) := by
  rw [skipOnKey, skipOnKey, apply_ite (overlay b g), ← skipIf_overlay]
  rfl

/-- The body of an instruction does not read the overlaid fields and carries them through. -/
def CarriesThrough (i : Instr) : Prop :=
  ∃ t, exec i s = .next t ∧ exec i (overlay b g s) = .next (overlay b g t)

/-! The bodies that branch: the branch is decided by the stack, its depth or the keys, which the overlay keeps. -/

theorem carriesThrough_ret : CarriesThrough b g s .ret := by
  refine ⟨_, rfl, congrArg Host.Outcome.next ?_⟩
  change (match s.top? with | none => _ | some a => _) = _
  cases s.top? <;> rfl

theorem carriesThrough_call (nnn : Addr12) : CarriesThrough b g s (.call nnn) := by
  refine ⟨_, rfl, congrArg Host.Outcome.next ?_⟩
  by_cases hfull : s.stackFull = true
  · rw [if_pos hfull]; exact if_pos hfull
  · rw [if_neg hfull]; exact if_neg hfull

theorem carriesThrough_ldVxK (x : RegIx) : CarriesThrough b g s (.ldVxK x) := by
  refine ⟨_, rfl, congrArg Host.Outcome.next ?_⟩
  change (match s.lowestKey? with | none => _ | some k => _) = _
  cases s.lowestKey? <;> rfl

/-- The draw reads the grid and not `ST` (R31, R33). -/
theorem carriesThrough_drw (x y : RegIx) (n : Nibble) : CarriesThrough b none s (.drw x y n) :=
  ⟨_, rfl, congrArg Host.Outcome.next (withBytes_overlay b none s fun _ => rfl)⟩

/-- No instruction but `Fx18` has to do with `ST`, and none but `00E0` and `Dxyn` with the grid: every other one carries both
through. -/
theorem carriesThrough_of_ne {i : Instr} (hst : ∀ x, i ≠ .ldStVx x) (hcls : i ≠ .cls) (hdrw : ∀ x y n, i ≠ .drw x y n) :
    CarriesThrough b g s i := by
  cases i
  case cls => exact absurd rfl hcls
  case drw x y n => exact absurd rfl (hdrw x y n)
  case ldStVx x => exact absurd rfl (hst x)
  case ret => exact carriesThrough_ret b g s
  case call nnn => exact carriesThrough_call b g s nnn
  case ldVxK x => exact carriesThrough_ldVxK b g s x
  case seVxNn | sneVxNn | seVxVy | sneVxVy => exact ⟨_, rfl, congrArg Host.Outcome.next (skipIf_overlay b g s _)⟩
  case skp | sknp => exact ⟨_, rfl, congrArg Host.Outcome.next (skipOnKey_overlay b g s _ _)⟩
  case ldBVx | ldMiVx => exact ⟨_, rfl, congrArg Host.Outcome.next (storeBytes_overlay b g s _ _)⟩
  case ldVxMi => exact ⟨_, rfl, congrArg Host.Outcome.next (withBytes_overlay b g s fun _ => rfl)⟩
  all_goals exact ⟨_, rfl, rfl⟩

/-- Every instruction but `Fx18` carries `ST` through (R31). -/
theorem carriesThrough_st {i : Instr} (hst : ∀ x, i ≠ .ldStVx x) : CarriesThrough b none s i := by
  by_cases hcls : i = .cls
  · subst hcls; exact ⟨_, rfl, rfl⟩
  · by_cases hdrw : ∃ x y n, i = .drw x y n
    · obtain ⟨x, y, n, rfl⟩ := hdrw; exact carriesThrough_drw b s x y n
    · exact carriesThrough_of_ne b none s hst hcls fun x y n h => hdrw ⟨x, y, n, h⟩

/-- Every instruction but `Dxyn` and `00E0` carries the grid through (R33). -/
theorem carriesThrough_grid {i : Instr} (hcls : i ≠ .cls) (hdrw : ∀ x y n, i ≠ .drw x y n) : CarriesThrough none g s i := by
  by_cases hst : ∃ x, i = .ldStVx x
  · obtain ⟨x, rfl⟩ := hst; exact ⟨_, rfl, rfl⟩
  · exact carriesThrough_of_ne none g s (fun x h => hst ⟨x, h⟩) hcls hdrw

end Overlay

/-- Settles O58: `ST` and the grid are carried through by the instructions that do not own them, and `Fx18` overwrites `ST`. -/
theorem soundTimerAndGridAreNotRead : Obligations.SoundTimerAndGridAreNotRead := by
  intro i s
  refine ⟨fun hst b => carriesThrough_st (some b) s hst, fun x b => rfl, fun h g => ?_⟩
  exact carriesThrough_grid (some g) s (h 0 0 0).2 fun x y n => (h x y n).1

/-! ### The reset state -/

/-- The reset content of memory, in the bounds of R38: the font table at 0x050..0x09F and 0x00 elsewhere. -/
theorem resetByte_eq (a : Nat) : resetByte a = if 0x050 ≤ a ∧ a ≤ 0x09F then font.getD (a - 0x050) 0 else 0 := by
  rw [resetByte]
  exact if_congr (and_congr_right fun _ => Nat.lt_succ_iff) rfl rfl

/-- Settles O11: memory lists nothing, so it reads as its reset content, and the grid is the cleared one. -/
theorem resetStateIsFullySpecified : Obligations.ResetStateIsFullySpecified := by
  refine ⟨rfl, resetByte_eq, fun q => ?_, rfl, rfl, rfl, rfl, rfl, grid_get_clear, rfl⟩
  exact Vector.getElem_replicate q.isLt

end Sys2Proof.Proofs
end

section
/-! PROOFS. The statements of 20_memory.md: what a store makes of memory and of the fetches after it, and what it leaves alone. -/

namespace Sys2Proof.Proofs

open Sys2Proof.Machine

/-! ### The bodies that store, draw, call and return -/

/-- `Fx33` stores the three digits from `I` on (R174). -/
theorem exec_ldBVx (x : RegIx) (s : State) :
    exec (.ldBVx x) s = .next (s.storeBytes s.i.toNat (bcdDigits (s.reg x))) := rfl

/-- `Fx55` stores `V[0]` .. `V[x]` from `I` on (R175). -/
theorem exec_ldMiVx (x : RegIx) (s : State) :
    exec (.ldMiVx x) s = .next (s.storeBytes s.i.toNat (s.regsUpTo x)) := rfl

/-- `Dxyn` draws with the limits of R195 (R191). -/
theorem exec_drw (x y : RegIx) (n : Nibble) (s : State) :
    exec (.drw x y n) s = .next (drawSprite drawXLimit drawYLimit x y n s) := rfl

/-! ### A store, read back -/

/-- Memory after a store in range: the stored bytes over the old ones (R53, R61). -/
theorem byteAt_storeBytes {s : State} {bs : List Byte} (hwf : Memory.wf s.mem = true)
    (hb : s.i.toNat + bs.length ≤ Config.memSize) (a : Nat) :
    (s.storeBytes s.i.toNat bs).mem.byteAt a = storedOver s bs a := by
  rw [State.storeBytes_ok _ _ _ (.inr hb), State.setMem_mem]
  exact byteAt_setBytes bs s.mem hwf _ hb a

/-- A fetch on the memory that a store in range left: code and data are one memory (R63). -/
theorem fetch_after_storeBytes {s u : State} {bs : List Byte} (hwf : Memory.wf s.mem = true)
    (hmem : u.mem = (s.storeBytes s.i.toNat bs).mem) (hpc : u.pc.toNat ≤ 0x0FFE)
    (hb : s.i.toNat + bs.length ≤ Config.memSize) :
    u.fetch = .ok (storedOver s bs u.pc.toNat ++ storedOver s bs (u.pc.toNat + 1)) := by
  have hfetch : u.pc.toNat + 2 ≤ Config.memSize := Nat.add_le_add_right hpc 2
  rw [u.fetch_ok hfetch, hmem, byteAt_storeBytes hwf hb, byteAt_storeBytes hwf hb]

/-- Settles O40: both stores are one store of bytes, in range by the bound on `I`, and a fetch reads what it left. -/
theorem storedBytesAreFetchedNext : Obligations.StoredBytesAreFetchedNext := by
  intro x s t u hwf hmem hpc
  constructor
  · intro hi h
    cases (exec_ldBVx x s).symm.trans h
    exact fetch_after_storeBytes hwf hmem hpc (Nat.add_le_add_right hi 3)
  · intro hi h
    cases (exec_ldMiVx x s).symm.trans h
    have hb : s.i.toNat + (s.regsUpTo x).length ≤ Config.memSize := by
      rw [State.regsUpTo_length]
      exact Nat.succ_le_succ hi
    exact fetch_after_storeBytes hwf hmem hpc hb

/-! ### What stores leave alone, and what leaves memory alone -/

/-- A store of bytes, in range or not, changes no pixel, stack entry, register, `I` or timer (R64). -/
theorem storeBytes_frame (s : State) (base : Nat) (bs : List Byte) :
    (s.storeBytes base bs).grid = s.grid ∧ (s.storeBytes base bs).stack = s.stack ∧ (s.storeBytes base bs).v = s.v ∧
      (s.storeBytes base bs).i = s.i ∧ (s.storeBytes base bs).dt = s.dt ∧ (s.storeBytes base bs).st = s.st := by
  by_cases h : bs.length = 0 ∨ base + bs.length ≤ Config.memSize
  · rw [s.storeBytes_ok base bs h]; exact ⟨rfl, rfl, rfl, rfl, rfl, rfl⟩
  · rw [s.storeBytes_raise base bs h]; exact ⟨rfl, rfl, rfl, rfl, rfl, rfl⟩

/-- A checked read changes no memory where its continuation changes none (R52). -/
theorem withBytes_mem {s : State} {base n : Nat} {k : List Byte → State} (hk : ∀ bs, (k bs).mem = s.mem) :
    (s.withBytes base n k).mem = s.mem := by
  by_cases h : n = 0 ∨ base + n ≤ Config.memSize
  · rw [s.withBytes_ok base n k h]; exact hk _
  · rw [s.withBytes_raise base n k h]; exact s.raise_mem _ _

/-- Drawing reads memory and writes the grid and VF (R64, R191). -/
theorem drawSprite_mem (xLimit yLimit : Nat) (x y : RegIx) (n : Nibble) (s : State) :
    (drawSprite xLimit yLimit x y n s).mem = s.mem :=
  withBytes_mem fun _ => rfl

/-- A call pushes on the stack, which is not in memory, or raises (R64, R122). -/
theorem exec_call_mem {nnn : Addr12} {s t : State} (h : exec (.call nnn) s = .next t) : t.mem = s.mem := by
  rw [exec, execCall] at h
  split at h
  case isTrue => cases h; exact s.raise_mem _ _
  case isFalse => cases h; rfl

/-- A return pops the stack, which is not in memory, or raises (R64, R120). -/
theorem exec_ret_mem {s t : State} (h : exec .ret s = .next t) : t.mem = s.mem := by
  rw [exec, execRet] at h
  split at h
  case h_1 => cases h; exact s.raise_mem _ _
  case h_2 => cases h; rfl

/-- Settles O41: a store of bytes keeps to memory, and each of the other three bodies leaves memory as a whole. -/
theorem storesReachOnlyMemory : Obligations.StoresReachOnlyMemory := by
  intro s t x y n nnn
  constructor
  · rintro (h | h)
    · cases (exec_ldBVx x s).symm.trans h
      exact storeBytes_frame s _ _
    · cases (exec_ldMiVx x s).symm.trans h
      exact storeBytes_frame s _ _
  · intro h a
    have hmem : t.mem = s.mem := by
      rcases h with h | h | h
      · cases (exec_drw x y n s).symm.trans h
        exact drawSprite_mem _ _ x y n s
      · exact exec_call_mem h
      · exact exec_ret_mem h
    rw [hmem]

end Sys2Proof.Proofs
end

section
/-! PROOFS. The encoder and the decoder are inverse to each other (30_encoding.md R81, R82, R86, R89, R93). -/

namespace Sys2Proof.Proofs

/-! ### A register number as four bits -/

@[simp] theorem toNat_regBits (x : RegIx) : (regBits x).toNat = x.val := Nat.mod_eq_of_lt x.isLt

/-- A register field, as the four bits it was read from (R81). -/
theorem regBits_xField (w : Word) : regBits (xField w) = w.extractLsb' 8 4 :=
  (BitVec.ofNat_toNat 4 _).trans (BitVec.setWidth_eq _)

theorem regBits_yField (w : Word) : regBits (yField w) = w.extractLsb' 4 4 :=
  (BitVec.ofNat_toNat 4 _).trans (BitVec.setWidth_eq _)

/-- A register field that holds the bits of `x` reads as `x`. -/
theorem xField_eq {w : Word} {x : RegIx} (h : w.extractLsb' 8 4 = regBits x) : xField w = x :=
  Fin.ext ((congrArg BitVec.toNat h).trans (toNat_regBits x))

theorem yField_eq {w : Word} {y : RegIx} (h : w.extractLsb' 4 4 = regBits y) : yField w = y :=
  Fin.ext ((congrArg BitVec.toNat h).trans (toNat_regBits y))

/-! ### The fields of a packed word (R82) -/

@[simp] theorem opField_packNnn (op : Nibble) (nnn : Addr12) : opField (packNnn op nnn) = op :=
  BitVec.extractLsb'_append_eq_left

@[simp] theorem nnnField_packNnn (op : Nibble) (nnn : Addr12) : nnnField (packNnn op nnn) = nnn :=
  BitVec.extractLsb'_append_eq_right

@[simp] theorem opField_packXnn (op : Nibble) (x : RegIx) (nn : Byte) : opField (packXnn op x nn) = op :=
  opField_packNnn op _

@[simp] theorem xField_packXnn (op : Nibble) (x : RegIx) (nn : Byte) : xField (packXnn op x nn) = x :=
  xField_eq ((BitVec.extractLsb'_append_eq_of_add_le (by decide)).trans BitVec.extractLsb'_append_eq_left)

@[simp] theorem nnField_packXnn (op : Nibble) (x : RegIx) (nn : Byte) : nnField (packXnn op x nn) = nn :=
  (BitVec.extractLsb'_append_eq_of_add_le (by decide)).trans BitVec.extractLsb'_append_eq_right

@[simp] theorem opField_packXyn (op : Nibble) (x y : RegIx) (n : Nibble) : opField (packXyn op x y n) = op :=
  opField_packNnn op _

@[simp] theorem xField_packXyn (op : Nibble) (x y : RegIx) (n : Nibble) : xField (packXyn op x y n) = x :=
  xField_packXnn op x _

@[simp] theorem yField_packXyn (op : Nibble) (x y : RegIx) (n : Nibble) : yField (packXyn op x y n) = y := by
  refine yField_eq ?_
  rw [packXyn, BitVec.extractLsb'_append_eq_of_add_le (by decide), BitVec.extractLsb'_append_eq_of_add_le (by decide),
    BitVec.extractLsb'_append_eq_left]

@[simp] theorem nField_packXyn (op : Nibble) (x y : RegIx) (n : Nibble) : nField (packXyn op x y n) = n := by
  rw [nField, packXyn, BitVec.extractLsb'_append_eq_of_add_le (by decide), BitVec.extractLsb'_append_eq_of_add_le (by decide),
    BitVec.extractLsb'_append_eq_right]

/-- Settles O1: the top nibble of the packed word selects the family, `n` or `nn` the instruction within families 8, E and F, and
each operand is read back from its field. -/
theorem decodeOfEncodeIsTheInstruction : Obligations.DecodeOfEncodeIsTheInstruction := by
  intro i
  cases i
  case cls | ret => rfl
  case ldVxVy | or | and | xor | addVxVy | sub | shr | subn | shl => simp [encode, decode, decodeFamily8]
  case skp | sknp => simp [encode, decode, decodeFamilyE]
  case ldVxDt | ldVxK | ldDtVx | ldStVx | addIVx | ldFVx | ldBVx | ldMiVx | ldVxMi => simp [encode, decode, decodeFamilyF]
  -- the families that hold one instruction each, and families 5 and 9, where `n` is 0
  all_goals simp [encode, decode]

/-! ### A word is packed from its own fields (R81, R82) -/

/-- The lower twelve bits of a word are `x` over `nn`. -/
theorem append_nnField (w : Word) : (regBits (xField w) ++ nnField w : BitVec 12) = nnnField w := by
  rw [regBits_xField]
  exact BitVec.extractLsb'_append_extractLsb'_eq_extractLsb' (len₁ := 8) (len₂ := 4) rfl

/-- The lower eight bits of a word are `y` over `n`. -/
theorem append_nField (w : Word) : (regBits (yField w) ++ nField w : BitVec 8) = nnField w := by
  rw [regBits_yField]
  exact BitVec.extractLsb'_append_extractLsb'_eq_extractLsb' (len₁ := 4) (len₂ := 4) rfl

/-- Format `NNN`: a word is its top nibble over its lower twelve bits. -/
theorem packNnn_eq {w : Word} {op : Nibble} (hop : opField w = op) : packNnn op (nnnField w) = w := by
  rw [← hop]
  exact BitVec.extractLsb'_append_extractLsb' (w := 4) (len := 12)

/-- Format `XNN`, from the fields of a word. -/
theorem packXnn_eq {w : Word} {op : Nibble} {nn : Byte} (hop : opField w = op) (hnn : nnField w = nn) :
    packXnn op (xField w) nn = w := by
  rw [packXnn, ← hnn, append_nnField]
  exact packNnn_eq hop

/-- Formats `XY` and `XYN`, from the fields of a word: the `y` that `8xy6` and `8xyE` ignore is among them (R89). -/
theorem packXyn_eq {w : Word} {op n : Nibble} (hop : opField w = op) (hn : nField w = n) :
    packXyn op (xField w) (yField w) n = w :=
  packXnn_eq hop (by rw [← hn, append_nField])

/-! ### Encoding what was decoded, family by family (R84, R85) -/

theorem encode_of_decodeFamily0 {w : Word} {i : Instr} (h : decodeFamily0 w = .ok i) : encode i = w := by
  unfold decodeFamily0 at h
  split at h
  case isTrue hw => cases h; exact hw.symm
  case isFalse =>
    split at h <;> cases h
    case isTrue.refl hw => exact hw.symm

theorem encode_of_decodeFamily8 {w : Word} {i : Instr} (hop : opField w = 0x8) (h : decodeFamily8 w = .ok i) :
    encode i = w := by
  unfold decodeFamily8 at h
  split at h <;> cases h
  all_goals exact packXyn_eq hop ‹_›

theorem encode_of_decodeFamilyE {w : Word} {i : Instr} (hop : opField w = 0xE) (h : decodeFamilyE w = .ok i) :
    encode i = w := by
  unfold decodeFamilyE at h
  split at h <;> cases h
  all_goals exact packXnn_eq hop ‹_›

theorem encode_of_decodeFamilyF {w : Word} {i : Instr} (hop : opField w = 0xF) (h : decodeFamilyF w = .ok i) :
    encode i = w := by
  unfold decodeFamilyF at h
  split at h <;> cases h
  all_goals exact packXnn_eq hop ‹_›

/-- Settles O2: the arm of the decoder that was taken fixes the fields the instruction does not carry, and a word is packed from
its fields. -/
theorem encodeOfDecodeIsTheWord : Obligations.EncodeOfDecodeIsTheWord := by
  intro w i h
  have hrow := opField_of_decode h
  unfold decode at h
  split at h
  case h_1 => exact encode_of_decodeFamily0 h
  case h_9 hop => exact encode_of_decodeFamily8 hop h
  case h_15 hop => exact encode_of_decodeFamilyE hop h
  case h_16 => exact encode_of_decodeFamilyF (hrow.trans (opField_row_of_decodeFamilyF h)) h
  case h_6 hop | h_10 hop =>
    split at h <;> cases h
    case isTrue.refl hn => exact packXyn_eq hop hn
  case h_2 hop | h_3 hop | h_11 hop | h_12 hop => cases h; exact packNnn_eq hop
  case h_14 hop => cases h; exact packXyn_eq hop rfl
  case h_4 hop | h_5 hop | h_7 hop | h_8 hop | h_13 hop => cases h; exact packXnn_eq hop rfl

end Sys2Proof.Proofs
end

section
/-! PROOFS. The decoder against the opcode map and against the table of illegal words (30_encoding.md R84 to R87, R93). -/

namespace Sys2Proof.Proofs

open Sys2Proof.Laws

/-! ### The row of an instruction -/

/-- The word of an instruction matches the row the instruction stands for, for all 34 (R86). -/
theorem encode_matchesRow : ∀ i : Instr, encode i &&& i.row.mask = i.row.bits
  | .cls => EncodesRow.cls
  | .ret => EncodesRow.ret
  | .jp nnn => EncodesRow.jp nnn
  | .call nnn => EncodesRow.call nnn
  | .seVxNn x nn => EncodesRow.seVxNn x nn
  | .sneVxNn x nn => EncodesRow.sneVxNn x nn
  | .seVxVy x y => EncodesRow.seVxVy x y
  | .ldVxNn x nn => EncodesRow.ldVxNn x nn
  | .addVxNn x nn => EncodesRow.addVxNn x nn
  | .ldVxVy x y => EncodesRow.ldVxVy x y
  | .or x y => EncodesRow.or x y
  | .and x y => EncodesRow.and x y
  | .xor x y => EncodesRow.xor x y
  | .addVxVy x y => EncodesRow.addVxVy x y
  | .sub x y => EncodesRow.sub x y
  | .shr x y => EncodesRow.shr x y
  | .subn x y => EncodesRow.subn x y
  | .shl x y => EncodesRow.shl x y
  | .sneVxVy x y => EncodesRow.sneVxVy x y
  | .ldINnn nnn => EncodesRow.ldINnn nnn
  | .jpV0 nnn => EncodesRow.jpV0 nnn
  | .rnd x nn => EncodesRow.rnd x nn
  | .drw x y n => EncodesRow.drw x y n
  | .skp x => EncodesRow.skp x
  | .sknp x => EncodesRow.sknp x
  | .ldVxDt x => EncodesRow.ldVxDt x
  | .ldVxK x => EncodesRow.ldVxK x
  | .ldDtVx x => EncodesRow.ldDtVx x
  | .ldStVx x => EncodesRow.ldStVx x
  | .addIVx x => EncodesRow.addIVx x
  | .ldFVx x => EncodesRow.ldFVx x
  | .ldBVx x => EncodesRow.ldBVx x
  | .ldMiVx x => EncodesRow.ldMiVx x
  | .ldVxMi x => EncodesRow.ldVxMi x

/-- A decoded word matches the row of its instruction (R86, R93). -/
theorem matchesRow_of_decode {w : Word} {i : Instr} (h : decode w = .ok i) : w &&& i.row.mask = i.row.bits :=
  encodeOfDecodeIsTheWord w i h ▸ encode_matchesRow i

/-- Every instruction stands for a row of the opcode map (R86). -/
theorem row_mem_opcodeTable (i : Instr) : i.row ∈ opcodeTable := by
  cases i <;> simp only [Instr.row] <;> decide

/-- Two different rows differ in a bit that both masks cover, over the 34 rows (R86). -/
theorem row_eq_of_agree :
    ∀ r₁ ∈ opcodeTable, ∀ r₂ ∈ opcodeTable, r₁.bits &&& r₂.mask = r₂.bits &&& r₁.mask → r₁ = r₂ := by
  decide

/-- The rows are mutually exclusive (R86): a word that matches two rows agrees with both where both masks cover. -/
theorem row_unique {w : Word} {r₁ r₂ : OpcodeRow} (hr₁ : r₁ ∈ opcodeTable) (hr₂ : r₂ ∈ opcodeTable)
    (h₁ : w &&& r₁.mask = r₁.bits) (h₂ : w &&& r₂.mask = r₂.bits) : r₁ = r₂ := by
  refine row_eq_of_agree r₁ hr₁ r₂ hr₂ ?_
  rw [← h₁, ← h₂, BitVec.and_assoc, BitVec.and_assoc, BitVec.and_comm r₁.mask]

/-- Settles O3: a word that matches a row decodes, its instruction's own row matches too, and rows are exclusive. -/
theorem opcodeMapDecidesTheInstruction : Obligations.OpcodeMapDecidesTheInstruction := by
  refine ⟨rfl, fun w row hrow => ⟨fun h => ?_, ?_⟩, fun w r₁ r₂ => row_unique⟩
  · obtain ⟨i, hi⟩ := decode_ok_of_matchesWord hrow (beq_iff_eq.2 h)
    exact ⟨i, hi, row_unique (row_mem_opcodeTable i) hrow (matchesRow_of_decode hi) h⟩
  · rintro ⟨i, hi, rfl⟩
    exact matchesRow_of_decode hi

/-- A word that decodes is one of the 34 instructions of the map (R86, R93). -/
theorem wordLegal_of_decode_ok {w : Word} {i : Instr} (h : decode w = .ok i) : wordLegal w = true :=
  List.any_eq_true.2 ⟨i.row, row_mem_opcodeTable i, beq_iff_eq.2 (matchesRow_of_decode h)⟩

/-! ### The words that are rejected (R85, R87) -/

/-- Words of one family differ in their lower twelve bits (R81). -/
theorem eq_iff_nnnField {w v : Word} (hop : opField w = opField v) : w = v ↔ nnnField w = nnnField v := by
  refine ⟨congrArg nnnField, fun h => ?_⟩
  rw [← packNnn_eq hop, h, packNnn_eq rfl]

/-- An arm that rejects, against the condition it stands under. -/
theorem error_eq_error_iff {r e : Reject} {p : Prop} (hp : p) :
    (Except.error r : Except Reject Instr) = .error e ↔ r = e ∧ p := by
  simp [hp]

/-- An arm that accepts, against a condition it does not stand under. -/
theorem ok_eq_error_iff {i : Instr} {r e : Reject} {p : Prop} (hp : ¬ p) : Except.ok i = .error e ↔ r = e ∧ p := by
  simp [hp]

/-- Family 0 rejects every `nnn` but two (R85). -/
theorem decodeFamily0_error_iff {w : Word} {e : Reject} (hop : opField w = 0x0) :
    decodeFamily0 w = .error e ↔ Reject.illegalWord w = e ∧ nnnField w ≠ 0x0E0 ∧ nnnField w ≠ 0x0EE := by
  have hcls : w = 0x00E0 ↔ nnnField w = 0x0E0 := eq_iff_nnnField (v := 0x00E0) hop
  have hret : w = 0x00EE ↔ nnnField w = 0x0EE := eq_iff_nnnField (v := 0x00EE) hop
  simp only [decodeFamily0, hcls, hret]
  split
  case isTrue h => exact ok_eq_error_iff fun hn => hn.1 h
  case isFalse h =>
    split
    case isTrue h' => exact ok_eq_error_iff fun hn => hn.2 h'
    case isFalse h' => exact error_eq_error_iff ⟨h, h'⟩

/-- Family 8 rejects `n` in 8..D and F (R85). -/
theorem decodeFamily8_error_iff {w : Word} {e : Reject} :
    decodeFamily8 w = .error e ↔ Reject.illegalWord w = e ∧ 8 ≤ (nField w).toNat ∧ nField w ≠ 0xE := by
  unfold decodeFamily8
  split
  case h_10 h0 h1 h2 h3 h4 h5 h6 h7 hE =>
    -- of the values of `n` that no arm takes, none is below 8
    refine error_eq_error_iff ⟨?_, hE⟩
    clear hE
    generalize nField w = n at *
    decide +revert
  all_goals
    rename_i hn
    exact ok_eq_error_iff (by rw [hn]; decide)

/-- Family E rejects every `nn` but two (R85). -/
theorem decodeFamilyE_error_iff {w : Word} {e : Reject} :
    decodeFamilyE w = .error e ↔ Reject.illegalWord w = e ∧ nnField w ≠ 0x9E ∧ nnField w ≠ 0xA1 := by
  unfold decodeFamilyE
  split
  case h_3 h9E hA1 => exact error_eq_error_iff ⟨h9E, hA1⟩
  all_goals
    rename_i hnn
    exact ok_eq_error_iff (by rw [hnn]; decide)

/-- Family F rejects every `nn` but nine (R85). -/
theorem decodeFamilyF_error_iff {w : Word} {e : Reject} :
    decodeFamilyF w = .error e ↔ Reject.illegalWord w = e ∧
      nnField w ≠ 0x07 ∧ nnField w ≠ 0x0A ∧ nnField w ≠ 0x15 ∧ nnField w ≠ 0x18 ∧ nnField w ≠ 0x1E ∧
        nnField w ≠ 0x29 ∧ nnField w ≠ 0x33 ∧ nnField w ≠ 0x55 ∧ nnField w ≠ 0x65 := by
  unfold decodeFamilyF
  split
  case h_10 h07 h0A h15 h18 h1E h29 h33 h55 h65 => exact error_eq_error_iff ⟨h07, h0A, h15, h18, h1E, h29, h33, h55, h65⟩
  all_goals
    rename_i hnn
    exact ok_eq_error_iff (by rw [hnn]; decide)

/-- The family table of R87: which words of a family are illegal. -/
def IllegalInFamily (w : Word) : Prop :=
  (opField w = 0x0 ∧ nnnField w ≠ 0x0E0 ∧ nnnField w ≠ 0x0EE) ∨
  (opField w = 0x5 ∧ nField w ≠ 0) ∨
  (opField w = 0x8 ∧ 8 ≤ (nField w).toNat ∧ nField w ≠ 0xE) ∨
  (opField w = 0x9 ∧ nField w ≠ 0) ∨
  (opField w = 0xE ∧ nnField w ≠ 0x9E ∧ nnField w ≠ 0xA1) ∨
  (opField w = 0xF ∧ nnField w ≠ 0x07 ∧ nnField w ≠ 0x0A ∧ nnField w ≠ 0x15 ∧ nnField w ≠ 0x18 ∧ nnField w ≠ 0x1E ∧
    nnField w ≠ 0x29 ∧ nnField w ≠ 0x33 ∧ nnField w ≠ 0x55 ∧ nnField w ≠ 0x65)

/-- The decoder rejects exactly the words of the family table, each by name (R84, R87). -/
theorem decode_error_iff {w : Word} {e : Reject} : decode w = .error e ↔ Reject.illegalWord w = e ∧ IllegalInFamily w := by
  unfold decode IllegalInFamily
  split
  case h_1 hop => rw [decodeFamily0_error_iff hop]; simp [hop]
  case h_9 hop => rw [decodeFamily8_error_iff]; simp [hop]
  case h_15 hop => rw [decodeFamilyE_error_iff]; simp [hop]
  case h_16 =>
    have hop : opField w = 0xF := by
      generalize opField w = op at *
      decide +revert
    rw [decodeFamilyF_error_iff]; simp [hop]
  case h_6 hop | h_10 hop =>
    split
    case isTrue hn => exact ok_eq_error_iff (by simp [hop, hn])
    case isFalse hn => exact error_eq_error_iff (by simpa [hop] using hn)
  all_goals
    rename_i hop
    exact ok_eq_error_iff (by simp [hop])

/-- Settles O4: a rejection is the word's own and stands for membership in the family table. -/
theorem illegalWordsAreThoseOfTheFamilyTable : Obligations.IllegalWordsAreThoseOfTheFamilyTable := by
  intro w
  exact ⟨fun e h => (decode_error_iff.1 h).1.symm, decode_error_iff.trans (and_iff_right rfl)⟩

end Sys2Proof.Proofs
end

section
/-! PROOFS. The `Exec` step on the word it fetches: an illegal word, and a word placed for the next step (30_encoding.md R80, R87;
40_fetch_decode_cycle.md R107; 60_exceptions.md R231). -/

namespace Sys2Proof.Proofs

open Sys2Proof.Machine

/-! ### From an `Exec` step to the word at `pc` -/

/-- The word at `pc`: the byte at the lower address first (R54). -/
def wordAtPc (s : State) : Word := s.mem.byteAt s.pc.toNat ++ s.mem.byteAt (s.pc.toNat + 1)

/-- The state the body of an `Exec` event starts from, once the word at `pc` is fetched (R102, R106). -/
def fetchedState (s : State) (keys : BitVec 16) (rnd : Byte) : State :=
  { s with
    pc := s.pc + 2
    phase := .running
    env := Env.afterTaking s.env
    input := ⟨keys, rnd, s.pc, wordAtPc s⟩ }

/-- An `Exec` step of a live block dispatches the word at `pc`, where the fetch is in range (R107). -/
theorem step_exec {s : State} {keys : BitVec 16} {rnd : Byte} (hlive : s.live) (he : s.nextEvent = .exec keys rnd)
    (hpc : s.pc.toNat + 2 ≤ Config.memSize) :
    step s = State.endExecOutcome (dispatchWord (wordAtPc s) (fetchedState s keys rnd)) := by
  obtain ⟨husable, hfault⟩ := hlive
  rw [step_eq, he, runEvent, execEvent_live keys rnd s.takeEvent husable hfault]
  exact congrArg State.endExecOutcome (cycle_fetch_ok (s.takeEvent.leaveReset.beginExec keys rnd) hpc)

/-! ### An illegal word -/

/-- A word that is no instruction of the opcode map is rejected (R87, R93). -/
theorem decode_error_of_not_wordLegal {w : Word} (h : wordLegal w = false) : ∃ e, decode w = .error e := by
  cases hd : decode w with
  | error e => exact ⟨e, rfl⟩
  | ok i => rw [wordLegal_of_decode_ok hd] at h; cases h

/-- Settles O8: the word at `pc` is rejected, so the dispatch raises `IllegalInstruction` and `pc` is put back. -/
theorem illegalWordFaults : Obligations.IllegalWordFaults := by
  intro s keys rnd hlive he hpc hword
  obtain ⟨e, hd⟩ := decode_error_of_not_wordLegal (w := wordAtPc s) hword
  rw [step_exec hlive he (Nat.add_le_add_right hpc 2), dispatchWord_illegal _ e _ hd]
  rfl

/-! ### A placed word -/

/-- The two bytes of a word, put together again (R54). -/
theorem wordOfBytes_bytes (w : Word) : wordOfBytes (highByte w) (lowByte w) = w :=
  BitVec.extractLsb'_append_extractLsb' (w := 8) (len := 8)

/-- The bytes of a table word decode as the word does (R54, R80). -/
theorem decode_tableWord {w : Nat} {i : Instr} (h : decodeTableWord 16 w = some i) : decode (tableWord 16 w) = .ok i := by
  rw [decodeTableWord] at h
  cases hd : decode (wordOfBytes (highByte (tableWord 16 w)) (lowByte (tableWord 16 w))) with
  | ok j => rw [decodeBytes_of_decode_ok hd] at h; cases h; rwa [wordOfBytes_bytes] at hd
  | error e => rw [decodeBytes_of_decode_error hd] at h; cases h

/-- A table word of 16 bits is the word of its number. -/
theorem tableWord_eq (w : Nat) : tableWord 16 w = BitVec.ofNat 16 w :=
  BitVec.eq_of_toNat_eq (Nat.mod_mod w (2 ^ 16))

/-- A word is placed where a fetch succeeds (R101). -/
theorem placeAddr_add_two_le (s : State) : (placeAddr s).toNat + 2 ≤ Config.memSize := by
  rw [placeAddr]
  split
  case isTrue h => exact h
  case isFalse => decide

section Placed

variable (s : State) (w : Word)

/-- A placed word leaves a block that can step. -/
theorem placeWord_live : (placeWord s w).live := by
  refine ⟨fun h => ?_, rfl⟩
  rw [placeWord] at h
  split at h
  case isTrue => cases h
  case isFalse hp => exact hp h

/-- A placed word is met by an `Exec` event, listed or drawn. -/
theorem placeWord_nextEvent : ∃ keys rnd, (placeWord s w).nextEvent = .exec keys rnd := by
  obtain ⟨keys, rnd, es, h⟩ := withExecNext_events s.env
  exact ⟨keys, rnd, nextEvent_listed (placeWord s w) _ es h⟩

/-- The word placed is the word at `pc` (R54). -/
theorem placeWord_wordAtPc (hwf : Memory.wf s.mem = true) : wordAtPc (placeWord s w) = w := by
  have hbyte := byteAt_setBytes [highByte w, lowByte w] s.mem hwf (placeAddr s).toNat (placeAddr_add_two_le s)
  have hhigh : (placeWord s w).mem.byteAt (placeAddr s).toNat = highByte w := by
    rw [placeWord, hbyte]; simp
  have hlow : (placeWord s w).mem.byteAt ((placeAddr s).toNat + 1) = lowByte w := by
    rw [placeWord, hbyte]; simp
  exact (congrArg₂ wordOfBytes hhigh hlow).trans (wordOfBytes_bytes w)

end Placed

/-- Settles O18: the placed word is fetched, decoded and dispatched, and placing touches only memory, `pc`, the latch, the phase and
the queue. -/
theorem placedWordIsRunByTheNextStep : Obligations.PlacedWordIsRunByTheNextStep := by
  intro s w i hwf hi
  have hword := placeWord_wordAtPc s (tableWord 16 w) hwf
  obtain ⟨keys, rnd, he⟩ := placeWord_nextEvent s (tableWord 16 w)
  obtain ⟨t, ht, -⟩ := exec_result (fetchedState (placeWord s (tableWord 16 w)) keys rnd) i
  refine ⟨_, t, ht, ?_, rfl, hword.trans (tableWord_eq w), rfl, rfl, rfl, rfl, rfl, rfl⟩
  rw [State.withFetchWord, step_exec (placeWord_live s _) he (placeAddr_add_two_le s), hword,
    dispatchWord_ok _ i _ (decode_tableWord hi), ht]
  rfl

end Sys2Proof.Proofs
end

section
/-! PROOFS. What an `Exec` event does as a whole: its body, a fault on the way, or nothing on a halted block
(40_fetch_decode_cycle.md R101 to R107, R109; 60_exceptions.md R236, R237). -/

namespace Sys2Proof.Proofs

open Sys2Proof.Machine

/-! ### An `Exec` step that faults -/

/-- The state an `Exec` step leaves when it faults: the one before, the event taken and the latch set (R236, R237). -/
def stoppedBy (s : State) (cause : FaultCause) (word : Word) (info : Nat) : State :=
  { s with
    phase := .running
    env := Env.afterTaking s.env
    input := .idle
    fault := some ⟨cause, s.pc, word, BitVec.ofNat 16 info⟩ }

/-- A fetch is in range up to `pc` 0x0FFE (R101). -/
theorem fetchInRange_iff (s : State) : s.pc.toNat + 2 ≤ Config.memSize ↔ s.pc.toNat ≤ 0x0FFE :=
  Nat.add_le_add_iff_right (k := 0x0FFE) (n := 2)

section ExecStep

variable {s t : State} {keys : BitVec 16} {rnd : Byte}

/-- An `Exec` step of a live block whose fetch is out of range stops with nothing fetched (R101, R233). -/
theorem step_exec_outOfRange (hlive : s.live) (he : s.nextEvent = .exec keys rnd)
    (hpc : ¬ s.pc.toNat + 2 ≤ Config.memSize) :
    step s = .next (stoppedBy s .memoryOutOfRange 0 (max s.pc.toNat Config.memSize)) := by
  obtain ⟨husable, hfault⟩ := hlive
  rw [step_eq, he, runEvent, execEvent_live keys rnd s.takeEvent husable hfault]
  exact congrArg State.endExecOutcome (cycle_fetch_error (s.takeEvent.leaveReset.beginExec keys rnd) hpc)

/-- What dispatch can do: the decoded body completes, or there is a fault, the decoder's or the body's own (R103, R231). -/
theorem dispatchWord_cases {w : Word} (h : dispatchWord w s = .next t) :
    (∃ i, decode w = .ok i ∧ Completes i s t) ∨ ∃ cause info, t = s.raise cause info := by
  cases hd : decode w with
  | error e =>
    cases (dispatchWord_illegal w e s hd).symm.trans h
    exact .inr ⟨_, _, rfl⟩
  | ok i =>
    rcases exec_cases ((dispatchWord_ok w i s hd).symm.trans h) with hc | ⟨cause, info, ht, -, -⟩
    · exact .inl ⟨i, rfl, hc⟩
    · exact .inr ⟨cause, info, ht⟩

/-- An `Exec` step of a live block that ends with a fault recorded stopped at its fetch, its decoding or its body (R104). -/
theorem eq_stoppedBy_of_fault {r : FaultRecord} (hlive : s.live) (he : s.nextEvent = .exec keys rnd)
    (ht : step s = .next t) (hr : t.fault = some r) :
    ∃ cause info, t = stoppedBy s cause (if s.pc.toNat ≤ 0x0FFE then wordAtPc s else 0) info := by
  by_cases hpc : s.pc.toNat + 2 ≤ Config.memSize
  · rw [if_pos ((fetchInRange_iff s).1 hpc)]
    rw [step_exec hlive he hpc] at ht
    obtain ⟨u, hu, rfl⟩ := eq_endExec_of_endExecOutcome ht
    rcases dispatchWord_cases hu with ⟨i, -, hc⟩ | ⟨cause, info, rfl⟩
    · have noFault : u.fault = none := hc.frame.fault.trans hlive.2
      exact absurd (noFault.symm.trans hr) (by simp)
    · exact ⟨cause, info, rfl⟩
  · rw [if_neg (mt (fetchInRange_iff s).2 hpc)]
    cases (step_exec_outOfRange hlive he hpc).symm.trans ht
    exact ⟨_, _, rfl⟩

end ExecStep

/-- Settles O56: wherever the event faults, the state is the one before but for the latch, and the record names `pc` and the word
there. -/
theorem execEventFaultsArePrecise : Obligations.ExecEventFaultsArePrecise := by
  intro s t keys rnd r hlive he ht hr
  obtain ⟨cause, info, rfl⟩ := eq_stoppedBy_of_fault hlive he ht hr
  cases hr
  refine ⟨rfl, rfl, rfl, rfl, rfl, rfl, rfl, rfl, rfl, ?_⟩
  by_cases hpc : s.pc.toNat ≤ 0x0FFE
  · rw [if_pos hpc]; exact if_pos hpc
  · rw [if_neg hpc]; exact if_neg hpc

/-- The lowest address out of range that a fetch from 0x0FFF or above reports (R101, R233). -/
theorem reported_fetch_address {pc : Word} (h : 0x0FFF ≤ pc.toNat) :
    BitVec.ofNat 16 (max pc.toNat Config.memSize) = if pc = 0x0FFF then 0x1000 else pc := by
  split
  case isTrue h0 => rw [h0]; rfl
  case isFalse hne =>
    have hmem : Config.memSize ≤ pc.toNat := Nat.lt_of_le_of_ne h fun e => hne (BitVec.eq_of_toNat_eq e.symm)
    rw [max_eq_left hmem, BitVec.ofNat_toNat, BitVec.setWidth_eq]

/-- Settles O7: the cycle stops at the fetch, and the address it reports is 0x1000 or `pc` itself. -/
theorem fetchOutOfRangeFaults : Obligations.FetchOutOfRangeFaults := by
  intro s keys rnd hlive he hpc
  rw [step_exec_outOfRange hlive he (mt (fetchInRange_iff s).1 (Nat.not_le.2 hpc)), stoppedBy, reported_fetch_address hpc]

/-! ### An `Exec` step that runs a body -/

/-- Two bytes that decode with nothing left over decode as their word (R54, R80). -/
theorem decode_of_decodeBytes {hi lo : Byte} {i : Instr} (h : decodeBytes [hi, lo] = .ok (i, [])) :
    decode (wordOfBytes hi lo) = .ok i := by
  cases hd : decode (wordOfBytes hi lo) with
  | ok j => rw [decodeBytes_of_decode_ok hd] at h; cases h; rfl
  | error e => rw [decodeBytes_of_decode_error hd] at h; cases h

/-- An `Exec` step of a live block where the word at `pc` decodes is the instruction's body, which always answers a next state
(R102, R103, R107). -/
theorem step_exec_decoded {s : State} {keys : BitVec 16} {rnd : Byte} {i : Instr} (hlive : s.live)
    (he : s.nextEvent = .exec keys rnd) (hpc : s.pc.toNat ≤ 0x0FFE) (hi : decode (wordAtPc s) = .ok i) :
    ∃ t, exec i (fetchedState s keys rnd) = .next t ∧ step s = .next t.endExec := by
  obtain ⟨t, ht, -⟩ := exec_result (fetchedState s keys rnd) i
  refine ⟨t, ht, ?_⟩
  rw [step_exec hlive he ((fetchInRange_iff s).2 hpc), dispatchWord_ok _ i _ hi, ht]
  rfl

/-- Settles O6: the two bytes at `pc` are the word that the step dispatches. -/
theorem stepRunsTheDecodedInstruction : Obligations.StepRunsTheDecodedInstruction :=
  fun _ _ _ _ hlive he hpc hi => step_exec_decoded hlive he hpc (decode_of_decodeBytes hi)

/-- Settles O33: the word at `pc` decodes to the jump, whose target is the `pc` the event started from. -/
theorem jumpToSelfIsAFixedPoint : Obligations.JumpToSelfIsAFixedPoint := by
  intro s keys rnd nnn hlive he hpc hle hword
  have hjump : decode (wordAtPc s) = .ok (.jp nnn) := by
    rw [wordAtPc, hpc, hword]
    exact decodeOfEncodeIsTheInstruction _
  obtain ⟨t, ht, hstep⟩ := step_exec_decoded hlive he (hpc.trans_le hle) hjump
  cases ht
  have htarget : zextAddr nnn = s.pc := by
    refine BitVec.eq_of_toNat_eq ?_
    rw [hpc]
    exact BitVec.toNat_setWidth_of_le (by decide)
  exact ⟨_, hstep, rfl, rfl, rfl, htarget, rfl, rfl, rfl, rfl, rfl⟩

/-! ### A halted block -/

/-- A halted block keeps its timers on a `Tick` and leaves the tone false (R223). -/
theorem tickEvent_halted {s : State} (hp : s.phase ≠ .unusable) (hf : s.halted) :
    s.tickEvent = .next (s.leaveReset.emitTone false) := by
  have htick (u : State) (hu : u.halted) : u.tick = (u, false) := if_pos hu
  rw [State.tickEvent, htick s hf, htick s.leaveReset hf]
  split
  · contradiction
  · rfl

/-- Settles O9: `Exec` answers the state with the event taken, and `Tick` only adds the tone. -/
theorem haltedBlockIgnoresExecAndTick : Obligations.HaltedBlockIgnoresExecAndTick := by
  intro s hf hp
  constructor
  · intro keys rnd he
    refine ⟨s.takeEvent, ?_, ⟨rfl, rfl, rfl, rfl, rfl, rfl, rfl, rfl, rfl⟩, afterTaking_tone s.env⟩
    rw [step_eq, he]
    exact execEvent_halted keys rnd s.takeEvent hp hf
  · intro he
    refine ⟨s.takeEvent.leaveReset.emitTone false, ?_, ⟨rfl, rfl, rfl, rfl, rfl, rfl, rfl, rfl, rfl⟩, rfl⟩
    rw [step_eq, he]
    exact tickEvent_halted (s := s.takeEvent) hp hf

end Sys2Proof.Proofs
end

section
/-! PROOFS. What the body of an instruction may change, and which bodies read the inputs of the event (40_fetch_decode_cycle.md
R106, R108; 10_state.md R26, R31, R33). -/

namespace Sys2Proof.Proofs

open Sys2Proof.Machine

/-! ### Who owns what -/

/-- The state `s` with the values of `t` in the kind of state that the instruction owns besides registers, `pc` and the latch
(R108). -/
def withOwned (i : Instr) (s t : State) : State :=
  match i with
  | .ldBVx _ | .ldMiVx _ => { s with mem := t.mem }
  | .call _ | .ret => { s with stack := t.stack }
  | .cls | .drw _ _ _ => { s with grid := t.grid }
  | .ldDtVx _ => { s with dt := t.dt }
  | .ldStVx _ => { s with st := t.st }
  | .ldINnn _ | .addIVx _ | .ldFVx _ => { s with i := t.i }
  | .jp _ | .jpV0 _ | .seVxNn _ _ | .sneVxNn _ _ | .seVxVy _ _ | .sneVxVy _ _ | .skp _ | .sknp _ => s
  | .ldVxNn _ _ | .addVxNn _ _ | .ldVxVy _ _ | .or _ _ | .and _ _ | .xor _ _ | .rnd _ _ => s
  | .addVxVy _ _ | .sub _ _ | .shr _ _ | .subn _ _ | .shl _ _ | .ldVxDt _ | .ldVxK _ | .ldVxMi _ => s

/-- Apart from registers, `pc` and the latch, only what the instruction owns has changed. -/
def OwnersOnly (i : Instr) (s t : State) : Prop :=
  t = { withOwned i s t with v := t.v, pc := t.pc, fault := t.fault }

section OwnersOnly

variable {i : Instr} {s t : State}

/-- A change of registers, `pc` and the latch alone is open to every instruction. -/
theorem ownersOnly_of_eq (h : t = { s with v := t.v, pc := t.pc, fault := t.fault } := by rfl) : OwnersOnly i s t := by
  rw [OwnersOnly, h]
  cases i <;> rfl

theorem ownersOnly_skipIf (c : Bool) : OwnersOnly i s (s.skipIf c) :=
  ownersOnly_of_eq (by cases c <;> rfl)

theorem ownersOnly_skipOnKey (wanted : Bool) (x : RegIx) : OwnersOnly i s (skipOnKey wanted x s) := by
  rw [skipOnKey]
  split
  · exact ownersOnly_of_eq
  · exact ownersOnly_skipIf _

/-- A checked read changes what its continuation changes, or raises (R52). -/
theorem ownersOnly_withBytes {base n : Nat} {k : List Byte → State} (hk : ∀ bs, OwnersOnly i s (k bs)) :
    OwnersOnly i s (s.withBytes base n k) := by
  by_cases h : n = 0 ∨ base + n ≤ Config.memSize
  · rw [s.withBytes_ok base n k h]; exact hk _
  · rw [s.withBytes_raise base n k h]; exact ownersOnly_of_eq

/-- A checked store changes memory, or raises (R53, R241). -/
theorem ownersOnly_storeBytes {base : Nat} {bs : List Byte} (hm : ∀ m, OwnersOnly i s (s.setMem m)) :
    OwnersOnly i s (s.storeBytes base bs) := by
  by_cases h : bs.length = 0 ∨ base + bs.length ≤ Config.memSize
  · rw [s.storeBytes_ok base bs h]; exact hm _
  · rw [s.storeBytes_raise base bs h]; exact ownersOnly_of_eq

/-- The body of every instruction keeps to what the instruction owns (R108). -/
theorem exec_ownersOnly (h : exec i s = .next t) : OwnersOnly i s t := by
  cases i <;> cases h
  case ret =>
    split
    case h_1 => exact ownersOnly_of_eq
    case h_2 => rfl
  case call =>
    split
    case isTrue => exact ownersOnly_of_eq
    case isFalse => rfl
  case ldVxK => split <;> exact ownersOnly_of_eq
  case seVxNn | sneVxNn | seVxVy | sneVxVy => exact ownersOnly_skipIf _
  case skp | sknp => exact ownersOnly_skipOnKey _ _
  case drw | ldVxMi => exact ownersOnly_withBytes fun _ => rfl
  case ldBVx | ldMiVx => exact ownersOnly_storeBytes fun _ => rfl
  all_goals rfl

/-! Each kind of state stays with its owners. -/

theorem withOwned_mem (h : ∀ x, i ≠ .ldBVx x ∧ i ≠ .ldMiVx x) : (withOwned i s t).mem = s.mem := by
  cases i
  case ldBVx x => exact absurd rfl (h x).1
  case ldMiVx x => exact absurd rfl (h x).2
  all_goals rfl

theorem withOwned_stack (h : ∀ nnn, i ≠ .call nnn ∧ i ≠ .ret) : (withOwned i s t).stack = s.stack := by
  cases i
  case call nnn => exact absurd rfl (h nnn).1
  case ret => exact absurd rfl (h 0).2
  all_goals rfl

theorem withOwned_grid (h : ∀ x y n, i ≠ .drw x y n ∧ i ≠ .cls) : (withOwned i s t).grid = s.grid := by
  cases i
  case drw x y n => exact absurd rfl (h x y n).1
  case cls => exact absurd rfl (h 0 0 0).2
  all_goals rfl

theorem withOwned_dt (h : ∀ x, i ≠ .ldDtVx x) : (withOwned i s t).dt = s.dt := by
  cases i
  case ldDtVx x => exact absurd rfl (h x)
  all_goals rfl

theorem withOwned_st (h : ∀ x, i ≠ .ldStVx x) : (withOwned i s t).st = s.st := by
  cases i
  case ldStVx x => exact absurd rfl (h x)
  all_goals rfl

theorem withOwned_i (h : ∀ nnn x, i ≠ .ldINnn nnn ∧ i ≠ .addIVx x ∧ i ≠ .ldFVx x) : (withOwned i s t).i = s.i := by
  cases i
  case ldINnn nnn => exact absurd rfl (h nnn 0).1
  case addIVx x => exact absurd rfl (h 0 x).2.1
  case ldFVx x => exact absurd rfl (h 0 x).2.2
  all_goals rfl

/-- An instruction without a cause of its own leaves the latch as it was (R238). -/
theorem exec_fault_of_noCause (h : exec i s = .next t) (hc : ownCause i = none) : t.fault = s.fault := by
  rcases exec_cases h with hcomp | ⟨cause, info, -, hcause, -⟩
  · exact hcomp.frame.fault
  · exact absurd (hc.symm.trans hcause) (by simp)

/-- No body changes the model's own fields. -/
theorem exec_sameOwn (h : exec i s = .next t) : s.SameOwn t := by
  rcases exec_cases h with hcomp | ⟨cause, info, rfl, -, -⟩
  · exact hcomp.frame.own
  · exact ⟨rfl, rfl, rfl, rfl⟩

end OwnersOnly

/-- Settles O51: a body changes what its instruction owns, and each kind of state is owned by the instructions named. -/
theorem stateChangesOnlyByItsOwners : Obligations.StateChangesOnlyByItsOwners := by
  intro i s t h
  have hown := exec_ownersOnly h
  refine ⟨fun hi a => ?mem, fun hi => ?stack, fun hi => ?grid, fun hi => ?dt, fun hi => ?st, fun hi => ?i,
    exec_fault_of_noCause h, exec_sameOwn h⟩
  case mem => exact congrArg (Memory.byteAt · a) ((congrArg State.mem hown).trans (withOwned_mem hi))
  case stack => exact (congrArg State.stack hown).trans (withOwned_stack hi)
  case grid => exact (congrArg State.grid hown).trans (withOwned_grid hi)
  case dt => exact (congrArg State.dt hown).trans (withOwned_dt hi)
  case st => exact (congrArg State.st hown).trans (withOwned_st hi)
  case i => exact (congrArg State.i hown).trans (withOwned_i hi)

/-! ### Who reads the inputs -/

/-- The state with another key snapshot, another random byte, both or neither (R106). -/
def withInputs (k : Option (BitVec 16)) (r : Option Byte) (s : State) : State :=
  { s with input := { s.input with keys := k.getD s.input.keys, rnd := r.getD s.input.rnd } }

section Inputs

variable (k : Option (BitVec 16)) (r : Option Byte) (s : State)

/-! The shared operations commute with a change of inputs: a fault records the address and the word, and neither input. -/

theorem skipIf_withInputs (c : Bool) : (withInputs k r s).skipIf c = withInputs k r (s.skipIf c) := by
  cases c <;> rfl

theorem withBytes_withInputs {base n : Nat} {f f' : List Byte → State} (hf : ∀ bs, f' bs = withInputs k r (f bs)) :
    (withInputs k r s).withBytes base n f' = withInputs k r (s.withBytes base n f) := by
  by_cases h : n = 0 ∨ base + n ≤ Config.memSize
  · rw [State.withBytes_ok _ _ _ _ h, State.withBytes_ok _ _ _ _ h]; exact hf _
  · rw [State.withBytes_raise _ _ _ _ h, State.withBytes_raise _ _ _ _ h]; rfl

theorem storeBytes_withInputs (base : Nat) (bs : List Byte) :
    (withInputs k r s).storeBytes base bs = withInputs k r (s.storeBytes base bs) := by
  by_cases h : bs.length = 0 ∨ base + bs.length ≤ Config.memSize
  · rw [State.storeBytes_ok _ _ _ h, State.storeBytes_ok _ _ _ h]; rfl
  · rw [State.storeBytes_raise _ _ _ h, State.storeBytes_raise _ _ _ h]; rfl

/-- The key skips read the keys and not the random byte (R210, R211). -/
theorem skipOnKey_withRnd (wanted : Bool) (x : RegIx) :
    skipOnKey wanted x (withInputs none r s) = withInputs none r (skipOnKey wanted x s) := by
  rw [skipOnKey, skipOnKey, apply_ite (withInputs none r), ← skipIf_withInputs]
  rfl

/-- The body of an instruction ends in the same state but for the inputs themselves. -/
def IgnoresInputs (i : Instr) : Prop :=
  ∃ t, exec i s = .next t ∧ exec i (withInputs k r s) = .next (withInputs k r t)

theorem ignoresInputs_ret : IgnoresInputs k r s .ret := by
  refine ⟨_, rfl, congrArg Host.Outcome.next ?_⟩
  change (match s.top? with | none => _ | some a => _) = _
  cases s.top? <;> rfl

theorem ignoresInputs_call (nnn : Addr12) : IgnoresInputs k r s (.call nnn) := by
  refine ⟨_, rfl, congrArg Host.Outcome.next ?_⟩
  rw [apply_ite (withInputs k r)]
  rfl

/-- The key wait reads the keys and not the random byte (R212). -/
theorem ignoresRnd_ldVxK (x : RegIx) : IgnoresInputs none r s (.ldVxK x) := by
  refine ⟨_, rfl, congrArg Host.Outcome.next ?_⟩
  change (match s.lowestKey? with | none => _ | some k => _) = _
  cases s.lowestKey? <;> rfl

variable {k r}

/-- Every instruction ignores a change of the random byte, unless it is `Cxnn`, and of the keys, unless it is `Ex9E`, `ExA1` or
`Fx0A` (R106). -/
theorem ignoresInputs {i : Instr} (hrnd : r = none ∨ ∀ x nn, i ≠ .rnd x nn)
    (hkeys : k = none ∨ ∀ x, i ≠ .skp x ∧ i ≠ .sknp x ∧ i ≠ .ldVxK x) : IgnoresInputs k r s i := by
  cases i
  case rnd x nn =>
    obtain rfl := hrnd.resolve_right fun h => h x nn rfl
    exact ⟨_, rfl, rfl⟩
  case skp x =>
    obtain rfl := hkeys.resolve_right fun h => (h x).1 rfl
    exact ⟨_, rfl, congrArg Host.Outcome.next (skipOnKey_withRnd r s _ _)⟩
  case sknp x =>
    obtain rfl := hkeys.resolve_right fun h => (h x).2.1 rfl
    exact ⟨_, rfl, congrArg Host.Outcome.next (skipOnKey_withRnd r s _ _)⟩
  case ldVxK x =>
    obtain rfl := hkeys.resolve_right fun h => (h x).2.2 rfl
    exact ignoresRnd_ldVxK r s x
  case ret => exact ignoresInputs_ret k r s
  case call nnn => exact ignoresInputs_call k r s nnn
  case seVxNn | sneVxNn | seVxVy | sneVxVy => exact ⟨_, rfl, congrArg Host.Outcome.next (skipIf_withInputs k r s _)⟩
  case ldBVx | ldMiVx => exact ⟨_, rfl, congrArg Host.Outcome.next (storeBytes_withInputs k r s _ _)⟩
  case drw | ldVxMi => exact ⟨_, rfl, congrArg Host.Outcome.next (withBytes_withInputs k r s fun _ => rfl)⟩
  all_goals exact ⟨_, rfl, rfl⟩

end Inputs

/-- Settles O57: a change of one input alone is ignored by every instruction that does not read that input. -/
theorem inputsReachOnlyTheirInstructions : Obligations.InputsReachOnlyTheirInstructions :=
  fun _ s => ⟨fun h rnd => ignoresInputs (r := some rnd) s (.inr h) (.inl rfl),
    fun h keys => ignoresInputs (k := some keys) s (.inl rfl) (.inr h)⟩

end Sys2Proof.Proofs
end

section
/-! PROOFS. The statements of 41_control_flow.md: jumps, skips, calls and returns. -/

namespace Sys2Proof.Proofs

open Sys2Proof.Machine

/-! ### The words of the formats as numbers (30_encoding.md R82) -/

/-- Bit vectors side by side, as a number. -/
theorem toNat_append_eq_add {m n : Nat} (a : BitVec m) (b : BitVec n) : (a ++ b).toNat = 2 ^ n * a.toNat + b.toNat := by
  rw [BitVec.toNat_append, ← Nat.shiftLeft_add_eq_or_of_lt b.isLt, Nat.shiftLeft_eq, Nat.mul_comm]

theorem toNat_packNnn (op : Nibble) (nnn : Addr12) : (packNnn op nnn).toNat = 0x1000 * op.toNat + nnn.toNat :=
  toNat_append_eq_add op nnn

theorem toNat_packXnn (op : Nibble) (x : RegIx) (nn : Byte) :
    (packXnn op x nn).toNat = 0x1000 * op.toNat + 0x100 * x.val + nn.toNat := by
  rw [packXnn, toNat_append_eq_add, toNat_append_eq_add, toNat_regBits]
  exact (Nat.add_assoc _ _ _).symm

theorem toNat_packXyn (op : Nibble) (x y : RegIx) (n : Nibble) :
    (packXyn op x y n).toNat = 0x1000 * op.toNat + 0x100 * x.val + 0x10 * y.val + n.toNat := by
  refine (toNat_packXnn op x (regBits y ++ n)).trans ?_
  rw [toNat_append_eq_add, toNat_regBits]
  exact (Nat.add_assoc _ _ _).symm

/-! ### Jumps (R121, R127) -/

/-- A zero-extended address is the same number (R9). -/
theorem toNat_zextAddr (nnn : Addr12) : (zextAddr nnn).toNat = nnn.toNat := BitVec.toNat_setWidth_of_le (by decide)

/-- The target of the jump with offset is the exact sum: it does not reach 16 bits (R127). -/
theorem toNat_jpV0_target (nnn : Addr12) (b : Byte) : (zextAddr nnn + zextByte b).toNat = nnn.toNat + b.toNat := by
  have hb : (zextByte b).toNat = b.toNat := BitVec.toNat_setWidth_of_le (by decide)
  rw [BitVec.toNat_add_of_lt, toNat_zextAddr, hb]
  rw [toNat_zextAddr, hb]
  omega

/-- Settles O26: the body is the write of `pc`. -/
theorem jumpSetsPc : Obligations.JumpSetsPc :=
  fun nnn _ => ⟨toNat_packNnn 0x1 nnn, _, rfl, toNat_zextAddr nnn, rfl⟩

/-- Settles O27: the body is the write of `pc`, and the sum is exact. -/
theorem jumpWithOffsetAddsV0 : Obligations.JumpWithOffsetAddsV0 :=
  fun nnn s => ⟨toNat_packNnn 0xB nnn, _, rfl, toNat_jpV0_target nnn (s.reg 0), jpV0_target_le nnn (s.reg 0), rfl⟩

/-! ### Skips (R123 to R126, R128) -/

/-- A skip of an instruction at `a`, whose `pc_next` is `a + 2`, goes to `a + 4` or `a + 2` without wrap (R128). -/
theorem skipIf_advances {s : State} {a : Word} (ha : a.toNat ≤ 0x0FFE) (hpc : s.pc = a + 2) {c : Bool} {p : Prop}
    [Decidable p] (hc : c = true ↔ p) :
    s.skipIf c = { s with pc := (s.skipIf c).pc } ∧ (s.skipIf c).pc.toNat = a.toNat + (if p then 4 else 2) := by
  refine ⟨by rw [State.skipIf_pc, State.skipIf_eq], ?_⟩
  rw [State.skipIf_pc, hpc]
  simp only [hc]
  split <;> bv_omega

/-- The key skips on a key number that names a key are plain skips (R210, R211). -/
theorem skipOnKey_of_le {s : State} {x : RegIx} (hx : (s.reg x).toNat ≤ 15) (wanted : Bool) :
    skipOnKey wanted x s = s.skipIf (s.keyDown (s.reg x).toNat == wanted) :=
  if_neg (Nat.not_lt.2 hx)

/-- Settles O28: each of the six bodies is a skip on its own condition. -/
theorem skipsAdvanceByFourOrTwo : Obligations.SkipsAdvanceByFourOrTwo := by
  intro x y nn a s ha hpc
  refine ⟨toNat_packXnn 0x3 x nn, toNat_packXnn 0x4 x nn, toNat_packXyn 0x5 x y 0, toNat_packXyn 0x9 x y 0,
    ⟨_, rfl, ?seVxNn⟩, ⟨_, rfl, ?sneVxNn⟩, ⟨_, rfl, ?seVxVy⟩, ⟨_, rfl, ?sneVxVy⟩,
    fun hx => ⟨⟨_, rfl, ?skp⟩, ⟨_, rfl, ?sknp⟩⟩⟩
  case seVxNn | seVxVy => exact skipIf_advances ha hpc beq_iff_eq
  case sneVxNn | sneVxVy => exact skipIf_advances ha hpc bne_iff_ne
  case skp | sknp =>
    rw [skipOnKey_of_le hx]
    exact skipIf_advances ha hpc beq_iff_eq

/-! ### Calls and returns (R120, R122, R129) -/

/-- A call on a full stack raises (R122, R234). -/
theorem exec_call_full {s : State} (h : s.stackFull = true) (nnn : Addr12) :
    exec (.call nnn) s = .next (s.raise .stackOverflow 0) :=
  congrArg Host.Outcome.next (if_pos h)

/-- A call on a stack with room pushes `pc_next` and jumps (R122). -/
theorem exec_call_room {s : State} (h : ¬ s.stackFull = true) (nnn : Addr12) :
    exec (.call nnn) s = .next ((s.push s.pc).setPc (zextAddr nnn)) :=
  congrArg Host.Outcome.next (if_neg h)

/-- A return on an empty stack raises (R120, R232). -/
theorem exec_ret_empty {s : State} (h : s.stack = []) : exec .ret s = .next (s.raise .stackUnderflow 0) := by
  rw [exec, execRet, State.top?, h]
  rfl

/-- A return takes the newest entry of the stack as `pc` (R120). -/
theorem exec_ret_append {s : State} {l : List Word} {a : Word} (h : s.stack = l ++ [a]) :
    exec .ret s = .next { s with stack := l, pc := a } := by
  rw [exec, execRet, State.top?, h, List.getLast?_concat, State.dropTop, h, List.dropLast_concat]
  rfl

/-- A call that did not fault pushed `pc_next` on the stack (R122). -/
theorem stack_of_exec_call {nnn : Addr12} {s t : State} (h : exec (.call nnn) s = .next t) (ht : t.fault = none) :
    t.stack = s.stack ++ [s.pc] := by
  by_cases hfull : s.stackFull = true
  · cases (exec_call_full hfull nnn).symm.trans h
    cases ht
  · cases (exec_call_room hfull nnn).symm.trans h
    rfl

/-- Settles O29: below `STACK_DEPTH` the stack is not full. -/
theorem callPushesPcNext : Obligations.CallPushesPcNext := by
  intro nnn s
  refine ⟨toNat_packNnn 0x2 nnn, fun hroom => ?_⟩
  have hfull : ¬ s.stackFull = true := by
    rw [State.stackFull_iff]
    rintro ⟨d, hd, hle⟩
    exact Nat.not_le.2 (hroom d hd) hle
  have htarget : zextAddr nnn = BitVec.ofNat 16 nnn.toNat := (BitVec.ofNat_toNat 16 nnn).symm
  rw [exec_call_room hfull, htarget]
  rfl

/-- Settles O30: the newest entry of `l ++ [a]` is `a`. -/
theorem returnPopsTheStack : Obligations.ReturnPopsTheStack :=
  fun _ _ _ h => ⟨rfl, exec_ret_append h⟩

/-- Settles O31: a stack as long as `STACK_DEPTH` is full, and an empty one has no newest entry. -/
theorem stackLimitsFault : Obligations.StackLimitsFault :=
  fun nnn s => ⟨fun h => exec_call_full (s.stackFull_iff.2 ⟨_, h, le_rfl⟩) nnn, exec_ret_empty⟩

/-- Settles O32: the newest entry of the call's stack is the `pc_next` of the call. -/
theorem returnResumesAfterTheCall : Obligations.ReturnResumesAfterTheCall := by
  intro nnn s t u _ hcall ht hu
  exact ⟨_, exec_ret_append (hu.trans (stack_of_exec_call hcall ht)), rfl, rfl⟩

end Sys2Proof.Proofs
end

section
/-! PROOFS. The statements of 42_alu.md: loads, arithmetic, logic, shifts, random. -/

namespace Sys2Proof.Proofs

open Sys2Proof.Machine

/-! ### Values and flags as numbers (R146 to R150) -/

/-- A flag write stores 1 or 0 (R22). -/
theorem flagByte_decide (p : Prop) [Decidable p] : flagByte (decide p) = if p then 1 else 0 := by
  simp only [flagByte, decide_eq_true_eq]

/-- The bit shifted out to the right is the remainder by 2 (R148). -/
theorem toNat_flagByte_shrFlag (a : Byte) : (flagByte (shrFlag a)).toNat = a.toNat % 2 := by
  rw [shrFlag, ← BitVec.testBit_toNat, Nat.testBit_zero, flagByte_decide]
  split
  case isTrue h => exact h.symm
  case isFalse h => exact (Nat.mod_two_ne_one.1 h).symm

/-- The high bit of a byte says whether it is 128 or more (R150). -/
theorem shlFlag_eq_decide (a : Byte) : shlFlag a = decide (a.toNat ≥ 128) :=
  BitVec.msb_eq_decide a

/-- The bit shifted out to the left is the quotient by 128 (R150). -/
theorem toNat_flagByte_shlFlag (a : Byte) : (flagByte (shlFlag a)).toNat = a.toNat / 128 := by
  have ha : a.toNat < 256 := a.isLt
  rw [shlFlag_eq_decide, flagByte_decide]
  split <;> simp only [BitVec.ofNat_eq_ofNat, BitVec.toNat_ofNat] <;> omega

/-- A shift to the left by one doubles modulo 256 (R150). -/
theorem toNat_shiftLeft_one (a : Byte) : (a <<< 1).toNat = 2 * a.toNat % 256 := by
  rw [BitVec.toNat_shiftLeft, Nat.shiftLeft_eq, Nat.mul_comm]

/-- A difference of bytes is the integer difference modulo 256 (R147, R149). -/
theorem toNat_sub_eq_emod (a b : Byte) : ((a - b).toNat : Int) = ((a.toNat : Int) - b.toNat) % 256 := by
  rw [BitVec.toNat_sub]
  omega

/-- The no-borrow flag as an integer, where a subtraction reads it as its operand (R154). -/
theorem toNat_flagByte_noBorrowFlag (a b : Byte) :
    ((flagByte (noBorrowFlag a b)).toNat : Int) = if a.toNat ≥ b.toNat then 1 else 0 := by
  rw [noBorrowFlag, flagByte_decide]
  split <;> rfl

/-! ### The order of flag and result (R11, decision D6) -/

section FlagAndResult

variable (s : State) {x : RegIx} (f : Bool) (b : Byte)

/-- A flag written after the result leaves the result, in any register but VF. -/
theorem reg_setReg_setFlag (hx : x ≠ vf) : ((s.setReg x b).setFlag f).reg x = b := by
  rw [State.reg_setFlag_other _ f x hx, State.reg_setReg_same]

/-- A result written after the flag leaves the flag, in any register but VF. -/
theorem reg_vf_setFlag_setReg (hx : x ≠ vf) : ((s.setFlag f).setReg x b).reg vf = flagByte f := by
  rw [State.reg_setReg_other _ x vf b hx.symm, State.reg_setFlag_vf]

end FlagAndResult

section SecondStatement

variable (s : State) (x y : RegIx)

/-- The second statement of `8xy5` reads its operands where it stands (R147). -/
@[simp] theorem reg_subtractInto : (subtractInto x y s).reg x = s.reg x - s.reg y := s.reg_setReg_same x _

/-- The second statement of `8xy7` reads its operands where it stands (R149). -/
@[simp] theorem reg_subtractReverse : (subtractReverse x y s).reg x = s.reg y - s.reg x := s.reg_setReg_same x _

/-- The second statement of `8xy6` reads its operand where it stands (R148). -/
@[simp] theorem reg_shiftRight : (shiftRight x s).reg x = s.reg x >>> 1 := s.reg_setReg_same x _

/-- The second statement of `8xyE` reads its operand where it stands (R150). -/
@[simp] theorem reg_shiftLeft : (shiftLeft x s).reg x = s.reg x <<< 1 := s.reg_setReg_same x _

end SecondStatement

/-! ### The five instructions with a flag, into a register other than VF

The addition and the shifts read no operand after the flag write but `V[x]`, so `y` may be VF. The subtractions read `V[y]` after
it: their operand is `V[y]` of the state with the flag written. -/

section Destination

variable (s : State) {x : RegIx} (y : RegIx) (hx : x ≠ vf)
include hx

/-- `8xy4` (R146). -/
theorem exec_addVxVy_result : ∃ t, exec (.addVxVy x y) s = .next t ∧
    (t.reg x).toNat = ((s.reg x).toNat + (s.reg y).toNat) % 256 ∧
    t.reg vf = if (s.reg x).toNat + (s.reg y).toNat > 255 then 1 else 0 := by
  refine ⟨_, rfl, ?_, (State.reg_setFlag_vf _ _).trans (flagByte_decide _)⟩
  rw [reg_setReg_setFlag s _ _ hx, BitVec.toNat_add]

/-- `8xy6` (R148). -/
theorem exec_shr_result : ∃ t, exec (.shr x y) s = .next t ∧
    (t.reg x).toNat = (s.reg x).toNat / 2 ∧ (t.reg vf).toNat = (s.reg x).toNat % 2 := by
  refine ⟨_, rfl, ?_, (congrArg BitVec.toNat (reg_vf_setFlag_setReg s _ _ hx)).trans (toNat_flagByte_shrFlag _)⟩
  rw [reg_shiftRight, State.reg_setFlag_other s _ x hx, BitVec.toNat_ushiftRight, Nat.shiftRight_one]

/-- `8xyE` (R150). -/
theorem exec_shl_result : ∃ t, exec (.shl x y) s = .next t ∧
    (t.reg x).toNat = 2 * (s.reg x).toNat % 256 ∧ (t.reg vf).toNat = (s.reg x).toNat / 128 := by
  refine ⟨_, rfl, ?_, (congrArg BitVec.toNat (reg_vf_setFlag_setReg s _ _ hx)).trans (toNat_flagByte_shlFlag _)⟩
  rw [reg_shiftLeft, State.reg_setFlag_other s _ x hx, toNat_shiftLeft_one]

/-- `8xy5` (R147). -/
theorem exec_sub_result : ∃ t, exec (.sub x y) s = .next t ∧
    ((t.reg x).toNat : Int) =
      (((s.reg x).toNat : Int) - ((s.setFlag (noBorrowFlag (s.reg x) (s.reg y))).reg y).toNat) % 256 ∧
    t.reg vf = if (s.reg x).toNat ≥ (s.reg y).toNat then 1 else 0 := by
  refine ⟨_, rfl, ?_, (reg_vf_setFlag_setReg s _ _ hx).trans (flagByte_decide _)⟩
  rw [reg_subtractInto, toNat_sub_eq_emod, State.reg_setFlag_other s _ x hx]

/-- `8xy7` (R149). -/
theorem exec_subn_result : ∃ t, exec (.subn x y) s = .next t ∧
    ((t.reg x).toNat : Int) =
      (((s.setFlag (noBorrowFlag (s.reg y) (s.reg x))).reg y).toNat - ((s.reg x).toNat : Int)) % 256 ∧
    t.reg vf = if (s.reg y).toNat ≥ (s.reg x).toNat then 1 else 0 := by
  refine ⟨_, rfl, ?_, (reg_vf_setFlag_setReg s _ _ hx).trans (flagByte_decide _)⟩
  rw [reg_subtractReverse, toNat_sub_eq_emod, State.reg_setFlag_other s _ x hx]

end Destination

/-- Settles O22: an operand other than VF is the same after the flag write. -/
theorem flagOutcomesWithoutVfOperand : Obligations.FlagOutcomesWithoutVfOperand := by
  intro x y s hx hy
  have hsub := exec_sub_result s y hx
  have hsubn := exec_subn_result s y hx
  rw [State.reg_setFlag_other s _ y hy] at hsub hsubn
  exact ⟨exec_addVxVy_result s y hx, hsub, exec_shr_result s y hx, hsubn, exec_shl_result s y hx⟩

/-! ### VF as an operand (R154) -/

/-- A flag shifted to the right is gone (R154). -/
theorem flagByte_ushiftRight_one (f : Bool) : flagByte f >>> 1 = 0 := by cases f <;> rfl

/-- A flag shifted to the left is 2 or 0 (R154). -/
theorem flagByte_shiftLeft_one (f : Bool) : flagByte f <<< 1 = if f then 2 else 0 := by cases f <;> rfl

/-- Settles O23: the addition ends with the flag, and a shift of VF shifts the flag it wrote. -/
theorem addAndShiftsWithVfOperand : Obligations.AddAndShiftsWithVfOperand := by
  intro x y s
  refine ⟨⟨_, rfl, (State.reg_setFlag_vf _ _).trans (flagByte_decide _)⟩, exec_addVxVy_result s vf,
    ⟨_, rfl, ?shr⟩, exec_shr_result s vf, ⟨_, rfl, ?shl⟩, exec_shl_result s vf⟩
  case shr => rw [reg_shiftRight, State.reg_setFlag_vf, flagByte_ushiftRight_one]
  case shl =>
    rw [reg_shiftLeft, State.reg_setFlag_vf, flagByte_shiftLeft_one, shlFlag_eq_decide]
    simp only [decide_eq_true_eq]

/-- Settles O24: where VF is an operand, the subtraction reads the flag in its place. -/
theorem subtractionsWithVfOperand : Obligations.SubtractionsWithVfOperand := by
  intro x y s hx hy
  have hsub := exec_sub_result s vf hx
  have hsubn := exec_subn_result s vf hx
  rw [State.reg_setFlag_vf, toNat_flagByte_noBorrowFlag] at hsub hsubn
  refine ⟨⟨_, rfl, ?subInto⟩, hsub, ⟨_, rfl, ?subBoth⟩, ⟨_, rfl, ?subnInto⟩, hsubn, ⟨_, rfl, ?subnBoth⟩⟩
  case subInto =>
    rw [reg_subtractInto, toNat_sub_eq_emod, State.reg_setFlag_vf, State.reg_setFlag_other s _ y hy,
      toNat_flagByte_noBorrowFlag]
  case subnInto =>
    rw [reg_subtractReverse, toNat_sub_eq_emod, State.reg_setFlag_vf, State.reg_setFlag_other s _ y hy,
      toNat_flagByte_noBorrowFlag]
  case subBoth => exact (reg_subtractInto _ vf vf).trans (BitVec.sub_self _)
  case subnBoth => exact (reg_subtractReverse _ vf vf).trans (BitVec.sub_self _)

/-! ### Loads, addition of an immediate, logic, random: one register and no flag (R140 to R145, R151) -/

/-- Settles O19: each body is one register write. -/
theorem registerLoads : Obligations.RegisterLoads :=
  fun x y nn _ => ⟨toNat_packXnn 0x6 x nn, rfl, toNat_packXyn 0x8 x y 0, rfl⟩

/-- Settles O20: the body is one register write, of the wrapped sum. -/
theorem addImmediateWrapsWithoutFlag : Obligations.AddImmediateWrapsWithoutFlag := by
  intro x nn s
  have hsum : BitVec.ofNat 8 (((s.reg x).toNat + nn.toNat) % 256) = s.reg x + nn := by
    rw [← BitVec.toNat_add, BitVec.ofNat_toNat, BitVec.setWidth_eq]
  rw [hsum]
  exact ⟨toNat_packXnn 0x7 x nn, rfl⟩

/-- The word of format `XYN` with the instruction's own nibbles summed first (R82). -/
theorem toNat_packXyn_fixed_first (op : Nibble) (x y : RegIx) (n : Nibble) :
    (packXyn op x y n).toNat = (0x1000 * op.toNat + n.toNat) + 0x100 * x.val + 0x10 * y.val := by
  rw [toNat_packXyn]
  omega

/-- Settles O21: each body is one register write. -/
theorem logicLeavesTheFlagAlone : Obligations.LogicLeavesTheFlagAlone :=
  fun x y _ => ⟨toNat_packXyn_fixed_first 0x8 x y 1, rfl, toNat_packXyn_fixed_first 0x8 x y 2, rfl,
    toNat_packXyn_fixed_first 0x8 x y 3, rfl⟩

/-- Settles O25: the body is one register write, and no bit is both in the mask and outside it. -/
theorem randomByteIsMasked : Obligations.RandomByteIsMasked := by
  intro x nn s
  refine ⟨toNat_packXnn 0xC x nn, rfl, ?_⟩
  rw [BitVec.and_assoc, BitVec.and_not_self]
  exact BitVec.and_zero

end Sys2Proof.Proofs
end

section
/-! PROOFS. The statements of 43_index_memory.md: loads of `I`, and the transfers between registers and memory. -/

namespace Sys2Proof.Proofs

open Sys2Proof.Machine

/-- The word of format `X` with the instruction's own fields summed first (R82). -/
theorem toNat_packXnn_fixed_first (op : Nibble) (x : RegIx) (nn : Byte) :
    (packXnn op x nn).toNat = (0x1000 * op.toNat + nn.toNat) + 0x100 * x.val := by
  rw [toNat_packXnn]
  omega

/-! ### Loads of `I` (R170, R172, R173) -/

/-- The low nibble of a byte, as a number. -/
theorem toNat_and_lowNibble (b : Byte) : (b &&& 0x0F).toNat = b.toNat % 16 :=
  Nat.and_two_pow_sub_one_eq_mod b.toNat 4

/-- A glyph address is the exact sum: it does not reach 16 bits (R173). -/
theorem toNat_glyphAddr (b : Byte) : (glyphAddr b).toNat = 0x0050 + 5 * (b &&& 0x0F).toNat := by
  rw [toNat_and_lowNibble]
  refine Nat.mod_eq_of_lt ?_
  change 0x0050 + 5 * (b.toNat % 16) < 65536
  omega

/-- Settles O34: both bodies are the write of `I`. -/
theorem indexLoads : Obligations.IndexLoads :=
  fun nnn x s => ⟨toNat_packNnn 0xA nnn, ⟨_, rfl, toNat_zextAddr nnn, rfl⟩,
    toNat_packXnn_fixed_first 0xF x 0x29, ⟨_, rfl, toNat_glyphAddr (s.reg x), rfl⟩⟩

/-- Settles O35: the body is the write of `I`, and addition of words is modulo 65536. -/
theorem addToIndexWrapsWithoutFlag : Obligations.AddToIndexWrapsWithoutFlag := by
  intro x s
  have hbyte : (zextByte (s.reg x)).toNat = (s.reg x).toNat := BitVec.toNat_setWidth_of_le (by decide)
  refine ⟨toNat_packXnn_fixed_first 0xF x 0x1E, _, rfl, ?_, rfl⟩
  rw [State.setI_i, BitVec.toNat_add, hbyte]

/-! ### What a store leaves alone, whatever the memory and whether it faults or not -/

/-- Storing a byte leaves every other byte, in canonical form or not (R53). -/
theorem byteAt_setByte_of_ne (m : Memory) {a q : Nat} (b : Byte) (hq : a ≠ q) : (m.setByte a b).byteAt q = m.byteAt q := by
  induction m with
  | nil =>
    rw [Memory.setByte]
    split
    · rfl
    · exact if_neg hq
  | cons c rest ih =>
    obtain ⟨p, d⟩ := c
    rw [Memory.setByte]
    split
    case isTrue =>
      split
      · rfl
      · exact if_neg hq
    case isFalse =>
      split
      case isTrue heq =>
        have old : Memory.byteAt ((p, d) :: rest) q = Memory.byteAt rest q := if_neg (heq ▸ hq)
        rw [old]
        split
        · rfl
        · exact if_neg hq
      case isFalse => rw [Memory.byteAt, Memory.byteAt, ih]

/-- Storing bytes leaves every byte outside them (R53). -/
theorem byteAt_setBytes_of_outside (bs : List Byte) (m : Memory) {base a : Nat} (ha : a < base ∨ base + bs.length ≤ a) :
    (m.setBytes base bs).byteAt a = m.byteAt a := by
  induction bs generalizing m base with
  | nil => rfl
  | cons b bs ih =>
    rw [List.length_cons] at ha
    rw [Memory.setBytes, ih _ (by omega), byteAt_setByte_of_ne m b (by omega)]

/-- A checked store leaves every byte outside those it names, in range or not (R53, R241). -/
theorem byteAt_storeBytes_of_outside (s : State) (bs : List Byte) {base a : Nat} (ha : a < base ∨ base + bs.length ≤ a) :
    (s.storeBytes base bs).mem.byteAt a = s.mem.byteAt a := by
  by_cases h : bs.length = 0 ∨ base + bs.length ≤ Config.memSize
  · rw [s.storeBytes_ok base bs h, State.setMem_mem, byteAt_setBytes_of_outside bs s.mem ha]
  · rw [s.storeBytes_raise base bs h, State.raise_mem]

/-- Settles O52: each body is a store of three bytes, or of `x + 1`, from the effective address of offset 0 on. -/
theorem storesTouchOnlyTheirBytes : Obligations.StoresTouchOnlyTheirBytes := by
  intro x s t a
  constructor
  · intro h ha
    cases (exec_ldBVx x s).symm.trans h
    exact byteAt_storeBytes_of_outside s (bcdDigits (s.reg x)) ha
  · intro h ha
    cases (exec_ldMiVx x s).symm.trans h
    exact byteAt_storeBytes_of_outside s (s.regsUpTo x) (by rwa [State.regsUpTo_length])

/-! ### Stores from `I` on, in range and out of range -/

section Stores

variable {s : State} {bs : List Byte}

/-- A store in range changes nothing but memory (R53, R64). -/
theorem storeBytes_eq_of_inRange (hb : s.i.toNat + bs.length ≤ Config.memSize) :
    s.storeBytes s.i.toNat bs = { s with mem := (s.storeBytes s.i.toNat bs).mem } := by
  rw [s.storeBytes_ok _ bs (.inr hb)]
  rfl

/-- After a store in range, the byte at `I + k` is the `k`th byte stored (R53). -/
theorem byteAt_storeBytes_add (hwf : Memory.wf s.mem = true) (hb : s.i.toNat + bs.length ≤ Config.memSize) {k : Nat}
    (hk : k < bs.length) : (s.storeBytes s.i.toNat bs).mem.byteAt (s.i.toNat + k) = bs.getD k 0 := by
  rw [byteAt_storeBytes hwf hb, storedOver, if_pos (by omega), Nat.add_sub_cancel_left]

/-- A store out of range is the faulted state with the lowest address out of range (R233, R241). -/
theorem storeBytes_outOfRange (hne : bs ≠ []) (hb : 4096 < s.i.toNat + bs.length) :
    s.storeBytes s.i.toNat bs = faulted s .memoryOutOfRange (max s.i.toNat 4096) :=
  s.storeBytes_raise _ bs (not_or.2 ⟨mt List.length_eq_zero_iff.1 hne, Nat.not_le.2 hb⟩)

end Stores

/-- The three digits of a byte, as numbers: none reaches 8 bits (R174). -/
theorem toNat_bcdDigits (b : Byte) :
    ((bcdDigits b).getD 0 0).toNat = b.toNat / 100 ∧ ((bcdDigits b).getD 1 0).toNat = b.toNat / 10 % 10 ∧
      ((bcdDigits b).getD 2 0).toNat = b.toNat % 10 := by
  have hb : b.toNat < 256 := b.isLt
  exact ⟨Nat.mod_eq_of_lt (by omega), Nat.mod_eq_of_lt (by omega), Nat.mod_eq_of_lt (by omega)⟩

/-- Settles O36: the body is a store of three bytes from `I` on, in range exactly when `I` is at most 0x0FFD. -/
theorem decimalDigitsAreStored : Obligations.DecimalDigitsAreStored := by
  intro x s
  refine ⟨toNat_packXnn_fixed_first 0xF x 0x33, fun hwf hi => ⟨_, exec_ldBVx x s, ?_⟩, fun hi => ?_⟩
  · have hb : s.i.toNat + (bcdDigits (s.reg x)).length ≤ Config.memSize := Nat.add_le_add_right hi 3
    have stored (k : Nat) (hk : k < 3) := congrArg BitVec.toNat (byteAt_storeBytes_add hwf hb hk)
    obtain ⟨hundreds, tens, ones⟩ := toNat_bcdDigits (s.reg x)
    exact ⟨(stored 0 (by decide)).trans hundreds, (stored 1 (by decide)).trans tens, (stored 2 (by decide)).trans ones,
      fun a ha => byteAt_storeBytes_of_outside s _ ha, storeBytes_eq_of_inRange hb⟩
  · have hout : 4096 < s.i.toNat + (bcdDigits (s.reg x)).length := Nat.add_lt_add_right hi 3
    exact congrArg Host.Outcome.next (storeBytes_outOfRange (List.cons_ne_nil _ _) hout)

/-- Settles O37: the body is a store of `x + 1` bytes from `I` on, the `q`th of them `V[q]`. -/
theorem registersAreStored : Obligations.RegistersAreStored := by
  intro x s
  have hlen : (s.regsUpTo x).length = x.val + 1 := s.regsUpTo_length x
  refine ⟨toNat_packXnn_fixed_first 0xF x 0x55, fun hwf hi => ⟨_, exec_ldMiVx x s, ?_⟩, fun hi => ?_⟩
  · have hb : s.i.toNat + (s.regsUpTo x).length ≤ Config.memSize := by rw [hlen]; exact Nat.succ_le_succ hi
    refine ⟨fun q hq => ?_, fun a ha => byteAt_storeBytes_of_outside s _ (by omega), storeBytes_eq_of_inRange hb⟩
    have hq' : q.val < (s.regsUpTo x).length := hlen ▸ Nat.lt_succ_of_le hq
    rw [byteAt_storeBytes_add hwf hb hq', s.regsUpTo_getD x q hq]
  · have hne : s.regsUpTo x ≠ [] := List.ne_nil_of_length_eq_add_one hlen
    rw [exec_ldMiVx, storeBytes_outOfRange hne (by omega)]

/-! ### Loads from `I` on -/

/-- `Fx65` hands `x + 1` bytes from `I` on to `V[0]` .. `V[x]` (R176). -/
theorem exec_ldVxMi (x : RegIx) (s : State) :
    exec (.ldVxMi x) s = .next (s.withBytes s.i.toNat (x.val + 1) s.setRegs) := rfl

/-- Registers that take the bytes of memory from `base` on: `V[0]` .. `V[x]` do, the others keep their values (R176). -/
theorem reg_setRegs_bytesFrom (s : State) (base : Nat) (x q : RegIx) :
    (s.setRegs (s.mem.bytesFrom base (x.val + 1))).reg q = if q ≤ x then s.mem.byteAt (base + q.val) else s.reg q := by
  have hle : q.val < x.val + 1 ↔ q ≤ x := Nat.lt_succ_iff
  simp only [State.reg_setRegs, bytesFrom_length, hle]
  split
  case isTrue h => exact bytesFrom_getD s.mem base _ _ (hle.2 h)
  case isFalse => rfl

/-- Settles O38: the body is a read of `x + 1` bytes from `I` on, which the registers take. -/
theorem registersAreLoaded : Obligations.RegistersAreLoaded := by
  intro x s
  refine ⟨toNat_packXnn_fixed_first 0xF x 0x65, fun hi => ?_, fun hi => ?_⟩
  · rw [exec_ldVxMi, s.withBytes_ok _ _ _ (.inr (Nat.succ_le_succ hi))]
    exact ⟨_, rfl, reg_setRegs_bytesFrom s _ x, rfl⟩
  · have hout : ¬ (x.val + 1 = 0 ∨ s.i.toNat + (x.val + 1) ≤ Config.memSize) :=
      not_or.2 ⟨Nat.succ_ne_zero _, Nat.not_le.2 (Nat.succ_lt_succ hi)⟩
    rw [exec_ldVxMi, s.withBytes_raise _ _ _ hout]
    rfl

/-- Settles O39: `Fx65` reads at `I + q` the byte that `Fx55` stored there. -/
theorem storeThenLoadRoundTrips : Obligations.StoreThenLoadRoundTrips := by
  intro x s t u hwf hi hstore hmem hI
  obtain ⟨-, store, -⟩ := registersAreStored x s
  obtain ⟨t', ht', stored, -⟩ := store hwf hi
  cases ht'.symm.trans hstore
  obtain ⟨-, load, -⟩ := registersAreLoaded x u
  obtain ⟨w, hw, loaded, -⟩ := load (hI ▸ hi)
  refine ⟨w, hw, fun q hq => ?_, fun q hq => ?_⟩
  · rw [loaded, if_pos hq, hmem, hI, stored q hq]
  · rw [loaded, if_neg (not_le.2 hq)]

end Sys2Proof.Proofs
end

section
/-! PROOFS. The statements of 44_display.md: clearing the grid, and drawing as an exclusive or with a loop-free sprite function. -/

namespace Sys2Proof.Proofs

open Sys2Proof.Machine

/-! ### Drawing as an exclusive or (R194, R196) -/

/-- The canvas `after` is the canvas `before` with the pixels of `p` flipped, a collision recorded when one of them was lit. -/
structure Plots (p : Nat → Nat → Bool) (before after : Canvas) : Prop where
  pixel : ∀ r c, Grid.get after.grid r c = (Grid.get before.grid r c ^^ p r c)
  hit : after.hit = true ↔ before.hit = true ∨ ∃ r c, Grid.get before.grid r c = true ∧ p r c = true

section Plots

variable {p q u : Nat → Nat → Bool} {cv cv₁ cv₂ : Canvas}

/-- Where no sprite bit is set, nothing is drawn. -/
theorem plots_none (hp : ∀ r c, p r c = false) : Plots p cv cv where
  pixel r c := by rw [hp, Bool.xor_false]
  hit := by simp only [hp, Bool.false_eq_true, and_false, exists_false, or_false]

/-- A set sprite bit inside the grid (R194, R196). -/
theorem plots_plotPixel {r₀ c₀ : Nat} (hr : r₀ < 32) (hc : c₀ < 64) (hp : ∀ r c, p r c = decide (r = r₀ ∧ c = c₀)) :
    Plots p cv (plotPixel cv r₀ c₀) where
  pixel r c := by
    rw [plotPixel_get cv r₀ c₀ hr hc, hp]
    split
    case isTrue h => rw [h.1, h.2, decide_eq_true ⟨rfl, rfl⟩, Bool.xor_true]
    case isFalse h => rw [decide_eq_false h, Bool.xor_false]
  hit := by
    have hlit : (∃ r c, Grid.get cv.grid r c = true ∧ p r c = true) ↔ Grid.get cv.grid r₀ c₀ = true := by
      simp only [hp, decide_eq_true_eq]
      exact ⟨fun ⟨_, _, h, hr, hc⟩ => hr ▸ hc ▸ h, fun h => ⟨_, _, h, rfl, rfl⟩⟩
    rw [plotPixel_hit, Bool.or_eq_true, hlit]

/-- Two drawings one after the other that share no pixel are the drawing of both: the second meets the pixels as the first found
them. -/
theorem Plots.trans (h₁ : Plots p cv cv₁) (h₂ : Plots q cv₁ cv₂) (hdisj : ∀ r c, q r c = true → p r c = false)
    (hu : ∀ r c, u r c = (p r c || q r c)) : Plots u cv cv₂ where
  pixel r c := by
    have hxor : (p r c ^^ q r c) = u r c := by
      rw [hu]
      cases hq : q r c
      · rw [Bool.xor_false, Bool.or_false]
      · rw [hdisj r c hq]; rfl
    rw [h₂.pixel, h₁.pixel, Bool.xor_assoc, hxor]
  hit := by
    have hsecond : ∀ r c, (Grid.get cv₁.grid r c = true ∧ q r c = true) ↔ (Grid.get cv.grid r c = true ∧ q r c = true) :=
      fun r c => and_congr_left fun hq => by rw [h₁.pixel, hdisj r c hq, Bool.xor_false]
    simp only [h₂.hit, h₁.hit, hsecond, hu, Bool.or_eq_true, and_or_left, exists_or, or_assoc]

/-- The same drawing twice restores the grid, and the second meets a lit pixel where the first met a clear one (R198). -/
theorem Plots.twice (h₁ : Plots p cv cv₁) (h₂ : Plots p ⟨cv₁.grid, false⟩ cv₂) :
    cv₂.grid = cv.grid ∧ (cv₂.hit = true ↔ ∃ r c, p r c = true ∧ Grid.get cv.grid r c = false) := by
  constructor
  · refine grid_ext _ _ fun r c _ _ => ?_
    rw [h₂.pixel, h₁.pixel, Bool.xor_assoc, Bool.xor_self, Bool.xor_false]
  · have hmet : ∀ r c, (Grid.get cv₁.grid r c = true ∧ p r c = true) ↔ (p r c = true ∧ Grid.get cv.grid r c = false) := by
      intro r c
      rw [and_comm]
      exact and_congr_right fun hp => by rw [h₁.pixel, hp, Bool.xor_true, Bool.not_eq_true']
    simp only [h₂.hit, hmet, Bool.false_eq_true, false_or]

end Plots

/-! ### The two loops of a draw (R191, R193, R195) -/

/-- Whether the pixels `k` to `k + m - 1` of the sprite row `b`, drawn at grid row `r₀` from column `cx0` on, set a bit at
`(r, c)`. -/
def pixelsBit (b : Byte) (r₀ cx0 k m r c : Nat) : Bool :=
  decide (r = r₀ ∧ cx0 + k ≤ c ∧ c < min (cx0 + k + m) 64) && b.getLsbD (7 - (c - cx0))

/-- Whether the sprite rows `bs`, drawn from grid row `r₀` and column `cx0` on, set a bit at `(r, c)`. -/
def rowsBit (bs : List Byte) (r₀ cx0 r c : Nat) : Bool :=
  decide (r₀ ≤ r ∧ r < r₀ + bs.length ∧ cx0 ≤ c ∧ c < min (cx0 + 8) 64) &&
    (bs.getD (r - r₀) 0).getLsbD (7 - (c - cx0))

/-- A bit is looked at only inside its window. -/
theorem decide_and_congr {p q : Prop} [Decidable p] [Decidable q] {a b : Bool} (hwindow : p ↔ q) (hbit : p → a = b) :
    (decide p && a) = (decide q && b) := by
  rw [← decide_eq_decide.2 hwindow]
  by_cases h : p
  · rw [hbit h]
  · rw [decide_eq_false h, Bool.false_and, Bool.false_and]

/-- No pixels, or pixels from the clipping column on, set no bit (R195). -/
theorem pixelsBit_eq_false {b : Byte} {r₀ cx0 k m : Nat} (h : m = 0 ∨ 64 ≤ cx0 + k) (r c : Nat) :
    pixelsBit b r₀ cx0 k m r c = false := by
  rw [pixelsBit, decide_eq_false (by omega), Bool.false_and]

/-- One pixel of a sprite row is bit `7 - k` at column `cx0 + k` (R193). -/
theorem pixelsBit_one {b : Byte} {cx0 k : Nat} (hc : cx0 + k < 64) (r₀ r c : Nat) :
    pixelsBit b r₀ cx0 k 1 r c = (decide (r = r₀ ∧ c = cx0 + k) && b.getLsbD (7 - k)) := by
  refine decide_and_congr (by omega) fun h => ?_
  rw [show c - cx0 = k by omega]

/-- The pixels of a sprite row are the first one and the others. -/
theorem pixelsBit_succ (b : Byte) (r₀ cx0 k m r c : Nat) :
    pixelsBit b r₀ cx0 k (m + 1) r c = (pixelsBit b r₀ cx0 k 1 r c || pixelsBit b r₀ cx0 (k + 1) m r c) := by
  rw [pixelsBit, pixelsBit, pixelsBit, ← Bool.and_or_distrib_right, ← Bool.decide_or]
  exact decide_and_congr (by omega) fun _ => rfl

/-- The rows of a sprite are the first one, eight pixels wide, and the others (R193). -/
theorem rowsBit_cons (b : Byte) (bs : List Byte) (r₀ cx0 r c : Nat) :
    rowsBit (b :: bs) r₀ cx0 r c = (pixelsBit b r₀ cx0 0 8 r c || rowsBit bs (r₀ + 1) cx0 r c) := by
  rw [rowsBit, pixelsBit, rowsBit, List.length_cons]
  by_cases hr : r₀ < r
  · rw [decide_eq_false (p := r = r₀ ∧ _) (by omega), Bool.false_and, Bool.false_or]
    refine decide_and_congr (by omega) fun _ => ?_
    rw [show r - r₀ = (r - (r₀ + 1)) + 1 by omega, List.getD_cons_succ]
  · rw [decide_eq_false (p := r₀ + 1 ≤ r ∧ _) (by omega), Bool.false_and, Bool.or_false]
    refine decide_and_congr (by omega) fun _ => ?_
    rw [Nat.sub_eq_zero_of_le (not_lt.1 hr), List.getD_cons_zero]

/-- One pixel of the inner loop: drawn when its bit is set. -/
theorem plots_pixel (b : Byte) {r₀ cx0 k : Nat} (hr : r₀ < 32) (hc : cx0 + k < 64) (cv : Canvas) :
    Plots (pixelsBit b r₀ cx0 k 1) cv (if b.getLsbD (7 - k) then plotPixel cv r₀ (cx0 + k) else cv) := by
  split
  case isTrue h => exact plots_plotPixel hr hc fun r c => by rw [pixelsBit_one hc, h, Bool.and_true]
  case isFalse h =>
    exact plots_none fun r c => by rw [pixelsBit_one hc, Bool.eq_false_iff.2 h, Bool.and_false]

/-- The inner loop draws its pixels up to the clipping column. -/
theorem plots_drawPixels (b : Byte) {r₀ : Nat} (hr : r₀ < 32) (cx0 k m : Nat) (cv : Canvas) :
    Plots (pixelsBit b r₀ cx0 k m) cv (drawPixels 64 b r₀ cx0 (List.range' k m) cv) := by
  induction m generalizing k cv with
  | zero => exact plots_none (pixelsBit_eq_false (.inl rfl))
  | succ m ih =>
    rw [List.range'_succ, drawPixels]
    split
    case isTrue hclip => exact plots_none (pixelsBit_eq_false (.inr hclip))
    case isFalse hin =>
      refine (plots_pixel b hr (not_le.1 hin) cv).trans (ih (k + 1) _) (fun r c hlater => ?_)
        (pixelsBit_succ b r₀ cx0 k m)
      simp only [pixelsBit, Bool.and_eq_true, decide_eq_true_eq] at hlater
      rw [pixelsBit, decide_eq_false (by omega), Bool.false_and]

/-- The outer loop draws its rows, all of them above the bottom edge (R195). -/
theorem plots_drawRows (bs : List Byte) (cx0 : Nat) {r₀ : Nat} (hr : r₀ + bs.length ≤ 32) (cv : Canvas) :
    Plots (rowsBit bs r₀ cx0) cv (drawRows 64 cx0 r₀ bs cv) := by
  induction bs generalizing r₀ cv with
  | nil => exact plots_none fun r c => by rw [rowsBit, List.length_nil, decide_eq_false (by omega), Bool.false_and]
  | cons b bs ih =>
    rw [List.length_cons] at hr
    have hfirst := plots_drawPixels b (show r₀ < 32 by omega) cx0 0 8 cv
    rw [← List.range_eq_range'] at hfirst
    refine hfirst.trans (ih (by omega) _) (fun r c hlater => ?_) (rowsBit_cons b bs r₀ cx0)
    simp only [rowsBit, Bool.and_eq_true, decide_eq_true_eq] at hlater
    rw [pixelsBit, decide_eq_false (by omega), Bool.false_and]

/-! ### The whole draw -/

/-- `bit(r, c)` of R199 is the bit that the drawn rows, read from `I` on, set at `(r, c)`. -/
theorem rowsBit_bytesFrom (s : State) (x y : RegIx) (n : Nibble) (r c : Nat) :
    rowsBit (s.mem.bytesFrom s.i.toNat (spriteRows s y n)) (s.startRow y) (s.startColumn x) r c = spriteBit s x y n r c := by
  rw [rowsBit, bytesFrom_length]
  refine decide_and_congr .rfl fun ⟨hlo, hhi, _⟩ => ?_
  rw [bytesFrom_getD _ _ _ _ (Nat.sub_lt_left_of_lt_add hlo hhi)]
  rfl

/-- The rows drawn end at the bottom edge (R195). -/
theorem startRow_add_spriteRows_le (s : State) (y : RegIx) (n : Nibble) : s.startRow y + spriteRows s y n ≤ 32 := by
  have hstart : s.startRow y < 32 := Nat.mod_lt _ (by decide)
  have hrows : spriteRows s y n ≤ 32 - s.startRow y := Nat.min_le_right _ _
  omega

/-- A sprite bit lies inside the grid: rows and columns are clipped at its edges (R195). -/
theorem inside_of_spriteBit {s : State} {x y : RegIx} {n : Nibble} {r c : Nat} (h : spriteBit s x y n r c = true) :
    r < 32 ∧ c < 64 := by
  obtain ⟨hwindow, -⟩ := Bool.and_eq_true_iff.1 h
  obtain ⟨-, hrow, -, hcolumn⟩ := of_decide_eq_true hwindow
  exact ⟨hrow.trans_le (startRow_add_spriteRows_le s y n), hcolumn.trans_le (Nat.min_le_right _ _)⟩

/-- A draw in range plots the sprite on the grid and writes the collision to VF (R191, R194, R196). -/
theorem exec_drw_inRange {s : State} {y : RegIx} {n : Nibble} (x : RegIx)
    (h : spriteRows s y n = 0 ∨ s.i.toNat + spriteRows s y n ≤ 4096) :
    ∃ cv, Plots (spriteBit s x y n) ⟨s.grid, false⟩ cv ∧
      exec (.drw x y n) s = .next ((s.setGrid cv.grid).setFlag cv.hit) := by
  have hrows : s.startRow y + (s.mem.bytesFrom s.i.toNat (spriteRows s y n)).length ≤ 32 := by
    rw [bytesFrom_length]
    exact startRow_add_spriteRows_le s y n
  have hplots := plots_drawRows _ (s.startColumn x) hrows ⟨s.grid, false⟩
  simp only [funext₂ (rowsBit_bytesFrom s x y n)] at hplots
  exact ⟨_, hplots, congrArg Host.Outcome.next (s.withBytes_ok _ _ _ h)⟩

/-- Settles O43: the canvas of the draw is the plotted sprite, and VF is its collision bit. -/
theorem drawIsTheLoopFreeFunction : Obligations.DrawIsTheLoopFreeFunction := by
  intro x y n s
  refine ⟨toNat_packXyn 0xD x y n, fun h => ?_⟩
  obtain ⟨cv, hplots, hexec⟩ := exec_drw_inRange x h
  refine ⟨_, hexec, fun r c _ _ => hplots.pixel r c, ?flag, fun q hq => State.reg_setFlag_other _ _ q hq, rfl⟩
  rw [State.reg_setFlag_vf]
  cases hhit : cv.hit
  case flag.true =>
    obtain hnone | ⟨r, c, hlit, hbit⟩ := hplots.hit.1 hhit
    · cases hnone
    · obtain ⟨hr, hc⟩ := inside_of_spriteBit hbit
      exact .inl ⟨rfl, r, c, hr, hc, hlit, hbit⟩
  case flag.false =>
    refine .inr ⟨rfl, fun r c _ _ hlit => Bool.eq_false_iff.2 fun hbit => ?_⟩
    exact Bool.eq_false_iff.1 hhit (hplots.hit.2 (.inr ⟨r, c, hlit, hbit⟩))

/-- The sprite of a state depends on the two coordinate registers, `I` and memory (R199). -/
theorem sprite_congr {s t : State} {x y : RegIx} (hx : t.reg x = s.reg x) (hy : t.reg y = s.reg y) (hi : t.i = s.i)
    (hm : t.mem = s.mem) (n : Nibble) : spriteRows t y n = spriteRows s y n ∧ spriteBit t x y n = spriteBit s x y n := by
  have hrows : spriteRows t y n = spriteRows s y n := by rw [spriteRows, spriteRows, hy]
  refine ⟨hrows, funext₂ fun r c => ?_⟩
  simp only [spriteBit, hrows, hx, hy, hi, hm]

/-- A flag write stores 1 exactly for a set flag (R22). -/
theorem flagByte_eq_one_iff (f : Bool) : flagByte f = 1 ↔ f = true := by cases f <;> decide

/-- Settles O45: an exclusive or undoes itself, and the second draw meets a lit pixel where the first met a clear one. -/
theorem drawingTwiceRestoresTheGrid : Obligations.DrawingTwiceRestoresTheGrid := by
  intro x y n s hx hy h
  obtain ⟨cv₁, hfirst, hexec₁⟩ := exec_drw_inRange x h
  obtain ⟨hrows, hbits⟩ := sprite_congr (s := s) (t := (s.setGrid cv₁.grid).setFlag cv₁.hit)
    (State.reg_setFlag_other _ _ x hx) (State.reg_setFlag_other _ _ y hy) rfl rfl n
  obtain ⟨cv₂, hsecond, hexec₂⟩ := exec_drw_inRange x (hrows.symm ▸ h)
  rw [hbits] at hsecond
  obtain ⟨hgrid, hhit⟩ := hfirst.twice hsecond
  refine ⟨_, _, hexec₁, hexec₂, hgrid, ?one, ?either⟩
  case one =>
    rw [State.reg_setFlag_vf, flagByte_eq_one_iff, hhit]
    refine exists₂_congr fun r c => ⟨fun hlit => ?_, fun ⟨_, _, hlit⟩ => hlit⟩
    obtain ⟨hr, hc⟩ := inside_of_spriteBit hlit.1
    exact ⟨hr, hc, hlit⟩
  case either =>
    rw [State.reg_setFlag_vf]
    cases cv₂.hit
    · exact .inl rfl
    · exact .inr rfl

/-- Settles O42: the body puts the cleared grid in place of the grid. -/
theorem clearScreenClearsEveryPixel : Obligations.ClearScreenClearsEveryPixel :=
  fun _ => ⟨rfl, _, rfl, grid_get_clear, rfl⟩

/-- Settles O44: the rows drawn are the bytes read, and the read is checked before anything changes. -/
theorem drawOutOfRangeFaults : Obligations.DrawOutOfRangeFaults := by
  intro x y n s
  refine ⟨fun hrows hout => ?_, fun h => ?_⟩
  · exact congrArg Host.Outcome.next (s.withBytes_raise _ _ _ (not_or.2 ⟨hrows.ne', Nat.not_le.2 hout⟩))
  · obtain ⟨cv, -, hexec⟩ := exec_drw_inRange x h
    exact ⟨_, hexec, rfl⟩

end Sys2Proof.Proofs
end

section
/-! PROOFS. The statements of 45_keys_timers.md: the key instructions, the timer moves, the `Tick` event and the length of a tone. -/

namespace Sys2Proof.Proofs

open Sys2Proof.Machine

/-! ### Keys (R210 to R212) -/

/-- Settles O46: a key number up to 15 leaves the plain skip on that key, and any other is raised. -/
theorem keySkipsTestOneKey : Obligations.KeySkipsTestOneKey := by
  intro x s
  refine ⟨toNat_packXnn_fixed_first 0xE x 0x9E, toNat_packXnn_fixed_first 0xE x 0xA1, fun hx => ?named, fun hx => ?above⟩
  case named =>
    have skips (wanted : Bool) := (skipOnKey_of_le hx wanted).trans (s.skipIf_eq _)
    constructor
    · refine congrArg Host.Outcome.next ((skips true).trans ?_)
      simp only [State.keyDown, beq_iff_eq]
    · refine congrArg Host.Outcome.next ((skips false).trans ?_)
      rw [State.keyDown]
      cases s.input.keys.getLsbD (s.reg x).toNat <;> rfl
  case above =>
    have raises (wanted : Bool) : skipOnKey wanted x s = faulted s .keyIndexOutOfRange (s.reg x).toNat := if_pos hx
    exact ⟨congrArg Host.Outcome.next (raises true), congrArg Host.Outcome.next (raises false)⟩

/-- The key found is the lowest-numbered one that is down (R212). -/
theorem lowestKey?_eq_some_iff (s : State) (k : Nat) :
    s.lowestKey? = some k ↔ k < 16 ∧ s.keyDown k = true ∧ ∀ j, j < k → s.keyDown j = false := by
  simp only [State.lowestKey?, List.find?_range_eq_some, List.mem_range, Bool.not_eq_true', and_left_comm]

/-- With no key down the key wait goes back to its own address (R212). -/
theorem exec_ldVxK_none {s : State} (h : s.lowestKey? = none) (x : RegIx) :
    exec (.ldVxK x) s = .next (s.setPc (s.pc - 2)) := by
  rw [exec, execLdVxK, h]

/-- With a key down the key wait stores the lowest one (R212). -/
theorem exec_ldVxK_some {s : State} {k : Nat} (h : s.lowestKey? = some k) (x : RegIx) :
    exec (.ldVxK x) s = .next (s.setReg x (BitVec.ofNat 8 k)) := by
  rw [exec, execLdVxK, h]

/-- Settles O47: the body does what the search for the lowest key answers. -/
theorem keyWaitTakesTheLowestKey : Obligations.KeyWaitTakesTheLowestKey := by
  refine fun x s => ⟨toNat_packXnn_fixed_first 0xF x 0x0A, fun hnone => ?_, fun k hk hdown hlow => ?_⟩
  · have hkeys : s.input.keys = 0 :=
      BitVec.eq_of_getLsbD_eq fun k hk => (hnone k hk).trans BitVec.getLsbD_zero.symm
    exact exec_ldVxK_none ((lowestKey?_eq_none_iff s).2 hkeys) x
  · exact exec_ldVxK_some ((lowestKey?_eq_some_iff s k).2 ⟨hk, hdown, hlow⟩) x

/-! ### Timers (R213 to R215, R220) -/

/-- Settles O48: each body is one write. -/
theorem timerMoves : Obligations.TimerMoves :=
  fun x _ => ⟨toNat_packXnn_fixed_first 0xF x 0x07, rfl, toNat_packXnn_fixed_first 0xF x 0x15, rfl,
    toNat_packXnn_fixed_first 0xF x 0x18, rfl⟩

/-- A timer goes down by one and stays at 0 (R220). -/
theorem toNat_countDown (t : Byte) : (State.countDown t).toNat = t.toNat - 1 := by
  rw [State.countDown]
  split
  case isTrue h => rw [h]; rfl
  case isFalse h => bv_omega

/-- The state a `Tick` leaves on a live block: both timers counted down, and the tone bit of `ST` as it was (R220, R221). -/
def tickedState (s : State) : State :=
  { s with
    dt := State.countDown s.dt
    st := State.countDown s.st
    phase := .running
    env := { Env.afterTaking s.env with tone := some (decide (s.st ≠ 0)) } }

/-- A `Tick` step of a live block (R220). -/
theorem step_tick {s : State} (hlive : s.live) (he : s.nextEvent = .tick) : step s = .next (tickedState s) := by
  obtain ⟨husable, hfault⟩ := hlive
  have htone : (s.st != 0) = decide (s.st ≠ 0) := by rw [decide_not]; rfl
  rw [step_eq, he, runEvent, State.tickEvent, tickedState, ← htone]
  split
  case h_1 h => exact absurd h husable
  case h_2 =>
    simp only [State.tick, State.leaveReset_fault, State.takeEvent_fault, hfault]
    rfl

/-- Settles O15: the step is known whole, and a count down is a truncated subtraction of one. -/
theorem tickCountsBothTimersDown : Obligations.TickCountsBothTimersDown :=
  fun s hlive he => ⟨_, step_tick hlive he, toNat_countDown s.dt, toNat_countDown s.st, rfl, rfl⟩

/-! ### The length of a tone (R221, R222) -/

/-- An `Exec` step of a live block that fetches no `Fx18` leaves `ST`: a fault does nothing else, and no other body owns `ST` (R31,
R236). -/
theorem st_of_step_exec {s t : State} {keys : BitVec 16} {rnd : Byte} (hlive : s.live) (he : s.nextEvent = .exec keys rnd)
    (hw : ∀ x, s.fetch ≠ .ok (encode (.ldStVx x))) (ht : step s = .next t) : t.st = s.st := by
  by_cases hpc : s.pc.toNat + 2 ≤ Config.memSize
  · rw [step_exec hlive he hpc] at ht
    obtain ⟨u, hu, rfl⟩ := eq_endExec_of_endExecOutcome ht
    cases hd : decode (wordAtPc s) with
    | error e => cases (dispatchWord_illegal _ e _ hd).symm.trans hu; rfl
    | ok i =>
      have hi (x : RegIx) : i ≠ .ldStVx x := by
        rintro rfl
        exact hw x ((s.fetch_ok hpc).trans (congrArg Except.ok (encodeOfDecodeIsTheWord _ _ hd).symm))
      have hown := exec_ownersOnly ((dispatchWord_ok _ i _ hd).symm.trans hu)
      exact (congrArg State.st hown).trans (withOwned_st hi)
  · cases (step_exec_outOfRange hlive he hpc).symm.trans ht
    rfl

/-- One step of a run without `Fx18`: a `Tick` counts `ST` down, and an `Exec` leaves it. -/
theorem toNat_st_of_step {s t : State} (hlive : s.live) (hkeeps : s.nextKeepsSound) (ht : step s = .next t) :
    t.st.toNat = s.st.toNat - if s.nextEvent = .tick then 1 else 0 := by
  rw [State.nextKeepsSound] at hkeeps
  split at hkeeps
  case h_1 he =>
    cases (step_tick hlive he).symm.trans ht
    rw [if_pos he]
    exact toNat_countDown s.st
  case h_2 he =>
    rw [st_of_step_exec hlive he hkeeps ht, he, if_neg (by simp)]
    rfl
  case h_3 | h_4 => exact hkeeps.elim

/-- One more step of a run is one more `Tick` if it is a `Tick`. -/
theorem ticksBefore_succ (r : Nat → State) (k : Nat) :
    ticksBefore r (k + 1) = ticksBefore r k + if (r k).nextEvent = .tick then 1 else 0 := by
  rw [ticksBefore, List.range_succ, List.filter_append, List.length_append, ticksBefore]
  congr 1
  by_cases he : (r k).nextEvent = .tick <;> simp [he]

/-- Along a run without `Fx18`, what is left of `ST` is its value at the start less the ticks so far. -/
theorem toNat_st_of_run {r : Nat → State} {k : Nat}
    (hrun : ∀ j, j < k → (r j).live ∧ (r j).nextKeepsSound ∧ step (r j) = .next (r (j + 1))) :
    (r k).st.toNat = (r 0).st.toNat - ticksBefore r k := by
  induction k with
  | zero => rfl
  | succ k ih =>
    obtain ⟨hlive, hkeeps, hstep⟩ := hrun k k.lt_succ_self
    rw [toNat_st_of_step hlive hkeeps hstep, ih fun j hj => hrun j (hj.trans k.lt_succ_self), ticksBefore_succ, Nat.sub_sub]

/-- Settles O16: the tone of a tick says whether anything is left of `ST`. -/
theorem toneLastsAsManyTicksAsSoundTimer : Obligations.ToneLastsAsManyTicksAsSoundTimer := by
  intro r k hrun he
  obtain ⟨hlive, -, hstep⟩ := hrun k le_rfl
  have hleft : (r k).st.toNat = (r 0).st.toNat - ticksBefore r k := toNat_st_of_run fun j hj => hrun j hj.le
  have htone : (r k).st ≠ 0 ↔ ticksBefore r k < (r 0).st.toNat := by
    rw [← Nat.sub_pos_iff_lt, ← hleft]
    bv_omega
  rw [← Host.Outcome.next.inj ((step_tick hlive he).symm.trans hstep)]
  exact congrArg some (decide_eq_decide.2 htone)

end Sys2Proof.Proofs
end

section
/-! PROOFS. The statements of 60_exceptions.md: what an instruction that faults does, and what clears the fault latch. -/

namespace Sys2Proof.Proofs

open Sys2Proof.Machine

/-! ### Instructions -/

/-- Settles O49: each of the 34 bodies completes or raises, and either way answers a next state. -/
theorem noInstructionStopsTheMachine : Obligations.NoInstructionStopsTheMachine := fun i s =>
  (exec_result s i).imp fun _ => And.left

/-- A fault found in an empty latch was raised by the body, for the instruction's own cause: a body that completes leaves the latch
as it was (R236, R238). -/
theorem eq_raise_of_fault {i : Instr} {s t : State} {r : FaultRecord} (hs : s.fault = none) (h : exec i s = .next t)
    (hr : t.fault = some r) : ownCause i = some r.cause ∧ ∃ info, t = s.raise r.cause info := by
  rcases exec_cases h with hcomp | ⟨cause, info, rfl, hcause, -⟩
  · exact absurd ((hcomp.frame.fault.trans hs).symm.trans hr) (by simp)
  · cases hr
    exact ⟨hcause, info, rfl⟩

/-- Settles O54: what is recorded is what the body raised. -/
theorem eachInstructionHasOneCause : Obligations.EachInstructionHasOneCause :=
  fun _ _ _ _ hs h hr => (eq_raise_of_fault hs h hr).left

/-- Settles O55: the state is the one that raising the fault makes of the old one, and its record is `r`. -/
theorem instructionFaultsArePrecise : Obligations.InstructionFaultsArePrecise := by
  intro i s t r hs h hr
  obtain ⟨-, info, ht⟩ := eq_raise_of_fault hs h hr
  have hrecord : r = ⟨r.cause, s.input.fetchPc, s.input.fetchWord, BitVec.ofNat 16 info⟩ := by
    rw [ht, State.raise_fault] at hr
    exact (Option.some.inj hr).symm
  refine ⟨congrArg FaultRecord.faultPc hrecord, congrArg FaultRecord.faultWord hrecord, ?_⟩
  rw [hrecord]
  exact ht

/-! ### Events -/

section Latch

variable {s t : State}

/-- A load does not touch the latch, whether the image fits or not (R263). -/
theorem loadEvent_keeps_fault {image : List Byte} (ht : s.loadEvent image = .next t) : t.fault = s.fault := by
  rw [State.loadEvent] at ht
  split at ht
  case h_1 => cases ht; split <;> rfl
  case h_2 | h_3 => cases ht

/-- An `Exec` on a halted block keeps the record (R105). -/
theorem execEvent_keeps_fault (hf : s.halted) {keys : BitVec 16} {rnd : Byte} (ht : execEvent keys rnd s = .next t) :
    t.fault = s.fault := by
  by_cases hp : s.phase = .unusable
  · cases (execEvent_unusable keys rnd s hp).symm.trans ht
  · cases (execEvent_halted keys rnd s hp hf).symm.trans ht
    rfl

/-- A `Tick` on a halted block keeps the record (R223). -/
theorem tickEvent_keeps_fault (hf : s.halted) (ht : s.tickEvent = .next t) : t.fault = s.fault := by
  by_cases hp : s.phase = .unusable
  · rw [State.tickEvent, hp] at ht
    cases ht
  · cases (tickEvent_halted hp hf).symm.trans ht
    rfl

/-- Of all events only `Reset` changes the latch of a halted block (R239). -/
theorem runEvent_keeps_fault (hf : s.halted) : ∀ e ≠ .reset, runEvent e s = .next t → t.fault = s.fault
  | .reset, he, _ => absurd rfl he
  | .load _, _, ht => loadEvent_keeps_fault ht
  | .exec _ _, _, ht => execEvent_keeps_fault hf ht
  | .tick, _, ht => tickEvent_keeps_fault hf ht

end Latch

/-- Settles O10: `Reset` leaves the empty latch of the reset state, and the other three events keep the record. -/
theorem onlyResetClearsTheFaultLatch : Obligations.OnlyResetClearsTheFaultLatch := by
  intro s t hf ht
  rw [step_eq] at ht
  constructor
  · intro he
    rw [he] at ht
    cases ht
    rfl
  · intro he
    exact runEvent_keeps_fault (s := s.takeEvent) hf _ he ht

end Sys2Proof.Proofs
end

section
/-! PROOFS. The statements of 70_reset_and_hazards.md: what `Reset` and `Load` do, and which events are refused. -/

namespace Sys2Proof.Proofs

open Sys2Proof.Machine

section Load

variable {s : State} {image : List Byte}

/-! ### Load, phase by phase -/

/-- In the reset state an image that fits is stored from 0x200 on (R263). -/
theorem loadEvent_fits (hp : s.phase = .fresh) (hfit : image.length ≤ Config.maxImage) :
    s.loadEvent image = .next { s with mem := s.mem.setBytes Config.progBase image, phase := .running } := by
  rw [State.loadEvent, hp]
  exact congrArg _ (if_pos hfit)

/-- In the reset state an image that does not fit leaves the block unusable, and nothing is stored (R263). -/
theorem loadEvent_tooLong (hp : s.phase = .fresh) (hlong : ¬ image.length ≤ Config.maxImage) :
    s.loadEvent image = .next { s with phase := .unusable } := by
  rw [State.loadEvent, hp]
  exact congrArg _ (if_neg hlong)

/-- Once the block has left the reset state a load is refused (R263). -/
theorem loadEvent_running (hp : s.phase = .running) : s.loadEvent image = .refused .loadOutsideReset := by
  rw [State.loadEvent, hp]

/-- In the reset state every load is answered, whatever the length of the image (R263). -/
theorem loadEvent_answers (hp : s.phase = .fresh) (image : List Byte) : ∃ t, s.loadEvent image = .next t := by
  by_cases hfit : image.length ≤ Config.maxImage
  · exact ⟨_, loadEvent_fits hp hfit⟩
  · exact ⟨_, loadEvent_tooLong hp hfit⟩

/-! ### An unusable block -/

/-- A block that is not usable refuses `Load` (R263). -/
theorem loadEvent_unusable (hp : s.phase = .unusable) : s.loadEvent image = .refused .blockUnusable := by
  rw [State.loadEvent, hp]

/-- A block that is not usable refuses `Tick` (R263). -/
theorem tickEvent_unusable (hp : s.phase = .unusable) : s.tickEvent = .refused .blockUnusable := by
  rw [State.tickEvent, hp]

/-- A block that is not usable refuses every event but `Reset` (R263). -/
theorem runEvent_unusable (hp : s.phase = .unusable) : ∀ e ≠ .reset, runEvent e s = .refused .blockUnusable
  | .reset, he => absurd rfl he
  | .load _, _ => loadEvent_unusable hp
  | .exec keys rnd, _ => execEvent_unusable keys rnd s hp
  | .tick, _ => tickEvent_unusable hp

end Load

/-! ### Reset and load as steps -/

/-- Settles O12: a `Reset` keeps of the old state only `STACK_DEPTH` and the queue, whose next event is taken. -/
theorem resetEventRestoresTheResetState : Obligations.ResetEventRestoresTheResetState := by
  intro s he
  rw [step_eq, he]
  rfl

/-- Settles O13: the image ends below 0x1000, so a read of the new memory finds its byte or what was there before. -/
theorem loadCopiesTheImage : Obligations.LoadCopiesTheImage := by
  intro s image hp hwf he hfit
  have hend : Config.progBase + image.length ≤ Config.memSize := Nat.add_le_add_left hfit 0x200
  refine ⟨_, by rw [step_eq, he]; exact loadEvent_fits (s := s.takeEvent) hp hfit, fun k hk => ?_, fun a ha => ?_, rfl⟩
  · refine (byteAt_setBytes image s.mem hwf _ hend _).trans ?_
    rw [if_pos ⟨Nat.le_add_right _ k, Nat.add_lt_add_left hk _⟩]
    exact congrArg (image.getD · 0) (Nat.add_sub_cancel_left 0x200 k)
  · exact byteAt_setBytes_of_outside image s.mem ha

/-- Settles O14: one law of the load for each phase, and the unusable block for the other events too. -/
theorem loadThatIsNotAllowedIsRefused : Obligations.LoadThatIsNotAllowedIsRefused := by
  intro s image
  rw [step_eq]
  refine ⟨fun hp he hlong => ?_, fun hp he => ?_, fun hp he => ?_⟩
  · rw [he]
    exact loadEvent_tooLong (s := s.takeEvent) hp (Nat.not_le.2 hlong)
  · rw [he]
    exact loadEvent_running (s := s.takeEvent) hp
  · exact runEvent_unusable (s := s.takeEvent) hp _ he

/-! ### What a usable block answers -/

section Answers

variable {s : State}

/-- A word is dispatched to a body, which answers, or is illegal (R103, R231). -/
theorem dispatchWord_answers (w : Word) (s : State) : ∃ t, dispatchWord w s = .next t := by
  cases hd : decode w with
  | error e => exact ⟨_, dispatchWord_illegal w e s hd⟩
  | ok i =>
    rw [dispatchWord_ok w i s hd]
    exact noInstructionStopsTheMachine i s

/-- A cycle answers, whether its fetch is in range or not (R101, R107). -/
theorem cycle_answers (s : State) : ∃ t, cycle s = .next t := by
  by_cases hr : s.pc.toNat + 2 ≤ Config.memSize
  · rw [cycle_fetch_ok s hr]
    exact dispatchWord_answers _ _
  · exact ⟨_, cycle_fetch_error s hr⟩

/-- A usable block answers `Exec`, halted or not (R105, R107). -/
theorem execEvent_answers (hp : s.phase ≠ .unusable) (keys : BitVec 16) (rnd : Byte) : ∃ t, execEvent keys rnd s = .next t := by
  cases hf : s.fault with
  | some r => exact ⟨_, execEvent_halted keys rnd s hp (by rw [hf]; rfl)⟩
  | none =>
    obtain ⟨t, ht⟩ := cycle_answers (s.leaveReset.beginExec keys rnd)
    rw [execEvent_live keys rnd s hp hf, ht]
    exact ⟨_, rfl⟩

/-- A usable block answers `Tick` (R220, R223). -/
theorem tickEvent_answers (hp : s.phase ≠ .unusable) : ∃ t, s.tickEvent = .next t := by
  rw [State.tickEvent]
  split
  case h_1 h => exact absurd h hp
  case h_2 => exact ⟨_, rfl⟩

/-- A usable block answers every event but a load outside the reset state (R262, R263). -/
theorem runEvent_answers (hp : s.phase ≠ .unusable) :
    ∀ e, (∀ image, e = .load image → s.phase = .fresh) → ∃ t, runEvent e s = .next t
  | .reset, _ => ⟨_, rfl⟩
  | .load image, hfresh => loadEvent_answers (hfresh image rfl) image
  | .exec keys rnd, _ => execEvent_answers hp keys rnd
  | .tick, _ => tickEvent_answers hp

end Answers

/-- Settles O17, by the phase of the block: fresh, it answers every event; running, every event but a load; unusable, only a
`Reset`. -/
theorem onlyRefusedLoadsStopTheMachine : Obligations.OnlyRefusedLoadsStopTheMachine := by
  intro s
  rw [step_eq]
  cases hp : s.phase with
  | fresh =>
    have husable : s.takeEvent.phase ≠ .unusable := ne_of_eq_of_ne hp (by decide)
    exact .inl (runEvent_answers husable s.nextEvent fun _ _ => hp)
  | running =>
    have husable : s.takeEvent.phase ≠ .unusable := ne_of_eq_of_ne hp (by decide)
    by_cases hload : ∃ image, s.nextEvent = .load image
    · refine .inr (.inr ⟨rfl, hload, ?_⟩)
      obtain ⟨image, he⟩ := hload
      rw [he]
      exact loadEvent_running (s := s.takeEvent) hp
    · exact .inl (runEvent_answers husable s.nextEvent fun image he => absurd ⟨image, he⟩ hload)
  | unusable =>
    by_cases he : s.nextEvent = .reset
    · rw [he]
      exact .inl ⟨_, rfl⟩
    · exact .inr (.inl ⟨rfl, he, runEvent_unusable (s := s.takeEvent) hp _ he⟩)

end Sys2Proof.Proofs
end
